-- ==== Sys2Proof/Word.lean ====
section
/-! DEFINITION. The words of the montgomery_ladder_engine: host registers, limbs, register numbers, limb vectors. -/

namespace Sys2Proof

/-- A host register, a command word or a micro-op word: 32 bits (R24, R80). -/
abbrev Word := BitVec 32

/-- One byte of a 32-byte buffer (R53). -/
abbrev Byte := BitVec 8

/-- One limb of a field register: an unsigned 64-bit word (R20). -/
abbrev Limb := BitVec 64

/-- A field register number, F0 to F15 (R20, R83). -/
abbrev FReg := Fin 16

/-- A 32-byte buffer as its eight 32-bit registers (R30, R31, R32, R53). -/
abbrev Buffer := Vector Word 8

/-- A field value while it is computed with: five limbs, exact natural numbers (R9). -/
@[ext]
structure Limbs where
  l0 : Nat
  l1 : Nat
  l2 : Nat
  l3 : Nat
  l4 : Nat
deriving DecidableEq, Repr

/-- A field register's contents: five 64-bit limbs, any pattern (R20). -/
@[ext]
structure FieldReg where
  l0 : Limb
  l1 : Limb
  l2 : Limb
  l3 : Limb
  l4 : Limb
deriving DecidableEq, Repr

end Sys2Proof
end

