-- ==== Sys2Proof/Config.lean ====
section
/-! DEFINITION. What is fixed for the machine (R6) and what the spec leaves OPEN (R7, 92_eei_decisions.md). -/

namespace Sys2Proof

/-- The prime p = 2^255 − 19 (R6). -/
def fieldPrime : Nat := 2 ^ 255 - 19

/-- M51 = 2^51 − 1, the mask of one radix-2^51 limb (R8). -/
def mask51 : Nat := 2 ^ 51 - 1

/-- The size of the host register window in bytes (R7, R50). -/
def windowBytes : Nat := 128

/-- OPEN `OOB` (R111, 92_eei_decisions.md D17): limb number `limb` of the `draw`-th value drawn for a result
register whose operands break their bound. Nothing constrains it. Log 1, DESIGN CHOICE of the form. -/
opaque Config.oobLimb (draw limb : Nat) : BitVec 64

/-- OPEN `BASE` in words: the platform address of the window divided by 4 (R50, 92_eei_decisions.md D2). -/
opaque Config.baseWords : Nat

/-- OPEN `BASE`: the platform address of the window, 4-byte aligned (92_eei_decisions.md, table of OPEN parameters).
Log 7. -/
def Config.base : Nat := 4 * Config.baseWords

end Sys2Proof
end

