-- ==== Sys2Proof/Syntax.lean ====
section
/-! DEFINITION. The instructions: one constructor per row of spec/opcode_table.json, fifteen micro-ops and two commands. -/

namespace Sys2Proof

/-- The micro-ops of R86 and the command words of R82. Operands are those of R84 and R85. -/
inductive Instr where
  /-- FADD rd, ra, rb (R112). -/
  | fadd (rd ra rb : FReg)
  /-- FSUB rd, ra, rb (R113). -/
  | fsub (rd ra rb : FReg)
  /-- FMUL rd, ra, rb (R114). -/
  | fmul (rd ra rb : FReg)
  /-- FSQR rd, ra, count (R115). -/
  | fsqr (rd ra : FReg) (count : BitVec 12)
  /-- FMULA24 rd, ra (R116). -/
  | fmula24 (rd ra : FReg)
  /-- FMOV rd, ra (R145). -/
  | fmov (rd ra : FReg)
  /-- FSETI rd, imm (R146). -/
  | fseti (rd : FReg) (imm : BitVec 12)
  /-- CSWAP ra, rb, j (R170). -/
  | cswap (ra rb : FReg) (bit : BitVec 8)
  /-- KLOAD (R143). -/
  | kload
  /-- FLOAD rd (R140). -/
  | fload (rd : FReg)
  /-- FSTORE ra (R141). -/
  | fstore (ra : FReg)
  /-- FINV rd, ra (R200). -/
  | finv (rd ra : FReg)
  /-- LSTEP (R171). -/
  | lstep
  /-- SMUL (R173). -/
  | smul
  /-- WIPE (R147). -/
  | wipe
  /-- The command DERIVE (R220). -/
  | derive
  /-- The command EXEC_UOP (R222). -/
  | execUop
deriving DecidableEq, Repr

/-- The block's one kind of exception, CmdError(code) (R240), by the cause of R241. -/
inductive CmdError where
  /-- The CMD word is not 0x00000001 or 0x00000002. -/
  | badCmd
  /-- The micro-op's OPC is 0x00 or at least 0x10. -/
  | badOpcode
  /-- A reserved-zero bit of the micro-op's form is 1. -/
  | badField
  /-- FSQR with count 0, or CSWAP with an odd pair base. -/
  | badOperand
deriving DecidableEq, Repr

end Sys2Proof
end

