-- ==== Sys2Proof/WellFormed.lean ====
section
/-! DEFINITION. Which instructions have an encoding: the operand checks of R85 and R87. -/

namespace Sys2Proof

/-- May `r` be the base of a projective point's register pair (F[r], F[r+1])? Its number is even (R85). -/
def pairBase (r : FReg) : Bool := r.val % 2 == 0

/-- FSQR's repeat count is 1 to 4095 and CSWAP's pair bases are even (R85, R87); every other operand is free. -/
def Instr.wellFormed : Instr → Bool
  | .fsqr _ _ count => count != 0
  | .cswap ra rb _ => pairBase ra && pairBase rb
  | .fadd _ _ _ | .fsub _ _ _ | .fmul _ _ _ | .fmula24 _ _ | .fmov _ _ | .fseti _ _ => true
  | .kload | .fload _ | .fstore _ | .finv _ _ | .lstep | .smul | .wipe | .derive | .execUop => true

end Sys2Proof
end

