-- ==== Sys2Proof/Decode.lean ====
section
/-! DEFINITION. Decoding of command words and micro-op words, total and rejecting by name (R80 to R88), and the
encoder. There is no instruction memory (R50, R64): a word is the contents of CMD, UOP or a ROM entry, never bytes. -/

namespace Sys2Proof

/-! ### Fields of a word (R83) -/

/-- The slice `w[hi:lo]` of R8, as a number. -/
def bits (hi lo : Nat) (w : Word) : Nat := w.toNat / 2 ^ lo % 2 ^ (hi + 1 - lo)

/-- OPC, bits [31:24]. -/
def opcField (w : Word) : Nat := bits 31 24 w

/-- A register field of four bits whose lowest bit is `lo` (R85: no scaling or offset). -/
def regField (lo : Nat) (w : Word) : FReg := Fin.ofNat 16 (bits (lo + 3) lo w)

/-- rd, bits [23:20]. -/
def rdField (w : Word) : FReg := regField 20 w

/-- ra, bits [19:16]. -/
def raField (w : Word) : FReg := regField 16 w

/-- rb, bits [15:12]. -/
def rbField (w : Word) : FReg := regField 12 w

/-- imm, bits [11:0]. -/
def immField (w : Word) : BitVec 12 := BitVec.ofNat 12 (bits 11 0 w)

/-- CSWAP's bit index, imm[7:0] (R85). -/
def bitIndexField (w : Word) : BitVec 8 := BitVec.ofNat 8 (bits 7 0 w)

/-! ### Micro-op words -/

/-- The micro-op that opcode byte `opc` selects, with the fields its form uses (R84, R86); none for an illegal
opcode (R87). -/
def uopOfOpcode (opc : Nat) (w : Word) : Option Instr :=
  match opc with
  | 0x01 => some (.fadd (rdField w) (raField w) (rbField w))
  | 0x02 => some (.fsub (rdField w) (raField w) (rbField w))
  | 0x03 => some (.fmul (rdField w) (raField w) (rbField w))
  | 0x04 => some (.fsqr (rdField w) (raField w) (immField w))
  | 0x05 => some (.fmula24 (rdField w) (raField w))
  | 0x06 => some (.fmov (rdField w) (raField w))
  | 0x07 => some (.fseti (rdField w) (immField w))
  | 0x08 => some (.cswap (raField w) (rbField w) (bitIndexField w))
  | 0x09 => some .kload
  | 0x0A => some (.fload (rdField w))
  | 0x0B => some (.fstore (raField w))
  | 0x0C => some (.finv (rdField w) (raField w))
  | 0x0D => some .lstep
  | 0x0E => some .smul
  | 0x0F => some .wipe
  | _ => none

/-- The reserved-zero mask of the opcode's form (R84). -/
def reservedZeroMask (opc : Nat) : Word :=
  match opc with
  | 0x01 | 0x02 | 0x03 => 0x00000FFF
  | 0x04 => 0x0000F000
  | 0x05 | 0x06 | 0x0C => 0x0000FFFF
  | 0x07 => 0x000FF000
  | 0x08 => 0x00F00F00
  | 0x0A => 0x000FFFFF
  | 0x0B => 0x00F0FFFF
  | _ => 0x00FFFFFF

/-- Decode a micro-op word, the checks in the order of R88: opcode, reserved fields, operands. -/
def decodeUop (w : Word) : Except CmdError Instr :=
  match uopOfOpcode (opcField w) w with
  | none => .error .badOpcode
  | some i =>
    if w &&& reservedZeroMask (opcField w) ≠ 0 then .error .badField
    else if i.wellFormed then .ok i
    else .error .badOperand

/-! ### Command words -/

/-- Decode a command word: the exact 32-bit word selects the command (R82). -/
def decodeCmd (w : Word) : Except CmdError Instr :=
  if w = 0x00000001 then .ok .derive
  else if w = 0x00000002 then .ok .execUop
  else .error .badCmd

/-! ### Either kind, as the opcode table lists them -/

/-- The instruction of a word that may be of either kind (R80). No word is both: a command word has OPC 0x00, which
is no micro-op (R86). Log 18. -/
def decodeWord (w : Word) : Option Instr :=
  match decodeCmd w with
  | .ok i => some i
  | .error _ =>
    match decodeUop w with
    | .ok i => some i
    | .error _ => none

/-- The word of an opcode-table row: the bits above the row's `nbits` are 0. -/
def tableWord (nbits w : Nat) : Nat := w % 2 ^ nbits

/-- The instruction this decoder reads from an opcode-table word; none where it refuses. -/
def decodeTableWord (nbits w : Nat) : Option Instr :=
  if tableWord nbits w < 2 ^ 32 then decodeWord (BitVec.ofNat 32 (tableWord nbits w)) else none

/-! ### Encoder -/

/-- A micro-op word from its fields, OPC rd ra rb imm (R83). -/
def uopWord (opc : Nat) (rd ra rb : FReg) (imm : Nat) : Word :=
  BitVec.ofNat 32 (opc * 2 ^ 24 + rd.val * 2 ^ 20 + ra.val * 2 ^ 16 + rb.val * 2 ^ 12 + imm)

/-- The word of an instruction, every field its form does not use 0 (R82, R84, R86). -/
def encode : Instr → Word
  | .fadd rd ra rb => uopWord 0x01 rd ra rb 0
  | .fsub rd ra rb => uopWord 0x02 rd ra rb 0
  | .fmul rd ra rb => uopWord 0x03 rd ra rb 0
  | .fsqr rd ra count => uopWord 0x04 rd ra 0 count.toNat
  | .fmula24 rd ra => uopWord 0x05 rd ra 0 0
  | .fmov rd ra => uopWord 0x06 rd ra 0 0
  | .fseti rd imm => uopWord 0x07 rd 0 0 imm.toNat
  | .cswap ra rb bit => uopWord 0x08 0 ra rb bit.toNat
  | .kload => uopWord 0x09 0 0 0 0
  | .fload rd => uopWord 0x0A rd 0 0 0
  | .fstore ra => uopWord 0x0B 0 ra 0 0
  | .finv rd ra => uopWord 0x0C rd ra 0 0
  | .lstep => uopWord 0x0D 0 0 0 0
  | .smul => uopWord 0x0E 0 0 0 0
  | .wipe => uopWord 0x0F 0 0 0 0
  | .derive => 0x00000001
  | .execUop => 0x00000002

end Sys2Proof
end

