-- ==== Sys2Proof/Machine/State.lean ====
section
/-! DEFINITION. The state of the block and of what stands around it, its faults and refusals, and reset. -/

namespace Sys2Proof.Machine

/-- Where a host access lands: at a byte offset of the 128-byte window, or outside it (R50). -/
inductive Target where
  | window (offset : Fin 128)
  | outside
deriving DecidableEq, Repr

/-- What a host access does: MemRead or MemWrite of a 32-bit value (R10). -/
inductive HostOp where
  | read
  | write (v : Word)
deriving DecidableEq, Repr

/-- One host access as the platform presents it (R51, R52): where, how wide in bits, which byte strobes, what. -/
structure HostAccess where
  target : Target
  width : Nat
  strobes : BitVec 4
  op : HostOp
deriving DecidableEq, Repr

/-- What the surroundings do next. Each is one step of the model: a host access (R59), the engine's turn (R224;
which turns come when is the OPEN latency, log 2), the reset input asserted or released (R270, log 6). -/
inductive Input where
  | host (a : HostAccess)
  | engine
  | resetAssert
  | resetRelease
deriving DecidableEq, Repr

/-- What the last host access answered. Log 3. -/
inductive HostResponse where
  /-- No access has been answered. -/
  | none
  /-- A read returned this value. -/
  | data (v : Word)
  /-- A write ended normally; it may have been ignored or filtered (R25, R55). Log 17. -/
  | written
  /-- The access was refused (R52) and the platform reports a bus error, in the OPEN form `BUSERR`. -/
  | busError
  /-- The access was outside the window: the answer is the platform's and the spec gives none (R50, D47). Log 4. -/
  | platform
deriving DecidableEq, Repr

/-- The machine: the tuple of R37, and the surroundings' part below it. Plain data. -/
@[ext]
structure State where
  /-- F0 to F15 (R20). -/
  f : Vector FieldReg 16
  /-- The scalar register K (R22). -/
  k : BitVec 256
  /-- SECRET0 to SECRET7 (R30). -/
  secret : Buffer
  /-- POINT0 to POINT7 (R31). -/
  point : Buffer
  /-- RESULT0 to RESULT7 (R32). -/
  result : Buffer
  /-- UOP (R28). -/
  uop : Word
  /-- IRQ_EN bit 0 (R29). -/
  doneIe : Bool
  /-- STATUS bit 0; also the engine's phase, BUSY when true and IDLE when false (R27, R33). -/
  busy : Bool
  /-- STATUS bit 1 (R27). -/
  done : Bool
  /-- STATUS bit 2 (R27). -/
  err : Bool
  /-- STATUS bit 3 (R27). -/
  ovr : Bool
  /-- STATUS bits [7:4] (R27). -/
  errcode : BitVec 4
  /-- The latch's command word (R33). -/
  latchCmd : Word
  /-- The latch's micro-op word (R33). -/
  latchUop : Word
  /-- The model's own: is the reset input asserted (R270)? Log 6. -/
  inReset : Bool
  /-- The model's own: what the surroundings do next, oldest first. Log 2. -/
  inputs : List Input
  /-- The model's own: the answer to the last host access. Log 3. -/
  response : HostResponse
  /-- The model's own: how many OOB values have been drawn (R111). Log 1. -/
  oobDraws : Nat
deriving DecidableEq, Repr

/-- Reasons to stop with a fault. There is none: the block's one exception, CmdError, is a next state (R240, R242),
arithmetic raises nothing (R247), and a refused host access leaves the block running (R246). Raised by nothing; safe. -/
inductive Fault
deriving DecidableEq, Repr

/-- Reasons to refuse a step. -/
inductive Refusal where
  /-- An instruction without a meaning. No arm of exec answers it; safe. -/
  | notModelled (mnemonic : String)
  /-- Raised by a host access to the window while the reset input is asserted, which is the platform's and which the
  spec tells a model to refuse (93_implementation_defined.md I6). Safe: the run ends. Log 5. -/
  | accessDuringReset
deriving DecidableEq, Repr

/-- The answer of a step of this machine. -/
abbrev Result := Host.Outcome State Fault Refusal

/-- A buffer of 32 zero bytes (R270). -/
def zeroBuffer : Buffer := Vector.replicate 8 0

/-- A field register of five zero limbs (R270). -/
def zeroReg : FieldReg := ⟨0, 0, 0, 0, 0⟩

/-- The machine right after reset (R270): every register 0, IDLE. The last four fields are the model's own, at the
values logs 1, 2, 3 and 6 name (DESIGN CHOICE). -/
def State.reset : State where
  f := Vector.replicate 16 zeroReg
  k := 0
  secret := zeroBuffer
  point := zeroBuffer
  result := zeroBuffer
  uop := 0
  doneIe := false
  busy := false
  done := false
  err := false
  ovr := false
  errcode := 0
  latchCmd := 0
  latchUop := 0
  inReset := false
  inputs := []
  response := .none
  oobDraws := 0

end Sys2Proof.Machine
end

