-- ==== Sys2Proof/Machine/Flags.lean ====
section
/-! DEFINITION. STATUS, IRQ_EN, the error codes and the interrupt output. No micro-op reads or writes a flag (R35). -/

namespace Sys2Proof.Machine

/-- The ERRCODE value of an error (R241). -/
def errorCode : CmdError → BitVec 4
  | .badCmd => 1
  | .badOpcode => 2
  | .badField => 3
  | .badOperand => 4

/-- One bit of a host register at position `i`. -/
def flagBit (b : Bool) (i : Nat) : Word := BitVec.ofNat 32 (b.toNat * 2 ^ i)

/-- What a read of STATUS gives: BUSY, DONE, ERR, OVR, ERRCODE in bits 0, 1, 2, 3 and [7:4], the rest 0 (R27). -/
def statusWord (s : State) : Word :=
  flagBit s.busy 0 ||| flagBit s.done 1 ||| flagBit s.err 2 ||| flagBit s.ovr 3 |||
    BitVec.ofNat 32 (s.errcode.toNat * 2 ^ 4)

/-- A host write to STATUS clears DONE and OVR where bits 1 and 3 of the written value are 1, and does nothing
else (R27). -/
def writeStatus (v : Word) (s : State) : State :=
  { s with done := s.done && !v.getLsbD 1, ovr := s.ovr && !v.getLsbD 3 }

/-- What a read of IRQ_EN gives (R29). -/
def irqEnWord (s : State) : Word := flagBit s.doneIe 0

/-- A host write to IRQ_EN keeps bit 0 (R29). -/
def writeIrqEn (v : Word) (s : State) : State := { s with doneIe := v.getLsbD 0 }

/-- A filtered host write sets the sticky overrun flag (R25, R245). -/
def setOverrun (s : State) : State := { s with ovr := true }

/-- The interrupt output: STATUS.DONE and IRQ_EN.DONE_IE (R36, R248). -/
def irq (s : State) : Bool := s.done && s.doneIe

end Sys2Proof.Machine
end

