-- ==== Sys2Proof/Machine/Operands.lean ====
section
/-! DEFINITION. Operands: field values and their bounds, buffers as integers, register pairs, the scalar's bits. -/

namespace Sys2Proof.Machine

/-! ### Field values (R9) -/

/-- `k n`, the number `n` evaluated first. It equals `k n` (Laws: `evalNat_eq`); written by cases so that Lean's
kernel evaluates a limb once, where it is computed, and not at every use. -/
def evalNat {α : Type} (n : Nat) (k : Nat → α) : α :=
  match n with
  | 0 => k 0
  | m + 1 => k (m + 1)

/-- The field value with these limbs, each evaluated (Laws: `mkLimbs_eq`). -/
def mkLimbs (l0 l1 l2 l3 l4 : Nat) : Limbs :=
  evalNat l0 fun l0 => evalNat l1 fun l1 => evalNat l2 fun l2 => evalNat l3 fun l3 => evalNat l4 fun l4 =>
    ⟨l0, l1, l2, l3, l4⟩

/-- val(f) of R9. -/
def limbsVal (a : Limbs) : Nat :=
  a.l0 + a.l1 * 2 ^ 51 + a.l2 * 2 ^ 102 + a.l3 * 2 ^ 153 + a.l4 * 2 ^ 204

/-- The limbs a register holds, as numbers. -/
def regLimbs (r : FieldReg) : Limbs := ⟨r.l0.toNat, r.l1.toNat, r.l2.toNat, r.l3.toNat, r.l4.toNat⟩

/-- A field value stored in a register: each limb's low 64 bits. No result of an in-bound operation has more
(R118, R121). Log 15. -/
def limbsReg (a : Limbs) : FieldReg :=
  ⟨BitVec.ofNat 64 a.l0, BitVec.ofNat 64 a.l1, BitVec.ofNat 64 a.l2, BitVec.ofNat 64 a.l3, BitVec.ofNat 64 a.l4⟩

/-- The low 51 bits, `x & M51` (R8). -/
def low51 (x : Nat) : Nat := x &&& mask51

/-- The carry out of a radix-2^51 limb, `x >> 51` (R8). -/
def carry51 (x : Nat) : Nat := x >>> 51

/-- The limbs of an integer at bit offsets 0, 51, 102, 153 and 204: FLOAD's formula, and fe(n) of R9 for
n < 2^255 (R140). -/
def expand (n : Nat) : Limbs :=
  mkLimbs (low51 n) (low51 (n >>> 51)) (low51 (n >>> 102)) (low51 (n >>> 153)) (low51 (n >>> 204))

/-! ### Bound preconditions (R111) -/

/-- Every limb is below `b` ("limbs < b", R9). -/
abbrev LimbsBelow (b : Nat) (a : Limbs) : Prop := a.l0 < b ∧ a.l1 < b ∧ a.l2 < b ∧ a.l3 < b ∧ a.l4 < b

/-- FADD: both operands have limbs < 2^54 (R112). -/
abbrev AddInBound (a b : Limbs) : Prop := LimbsBelow (2 ^ 54) a ∧ LimbsBelow (2 ^ 54) b

/-- FSUB: minuend limbs < 2^54, each subtrahend limb at most its bias limb (R113). -/
abbrev SubInBound (a b : Limbs) : Prop :=
  LimbsBelow (2 ^ 54) a ∧ b.l0 ≤ 2 ^ 54 - 152 ∧ b.l1 ≤ 2 ^ 54 - 8 ∧ b.l2 ≤ 2 ^ 54 - 8 ∧ b.l3 ≤ 2 ^ 54 - 8 ∧
    b.l4 ≤ 2 ^ 54 - 8

/-- FMUL, FSQR, FMULA24 and FINV: operand limbs < 2^55 (R114, R115, R116, R200). -/
abbrev MulInBound (a : Limbs) : Prop := LimbsBelow (2 ^ 55) a

/-- LSTEP's point coordinates and SMUL's base: limbs ≤ 2^54 − 152 (R171, R173). -/
abbrev PointInBound (a : Limbs) : Prop :=
  a.l0 ≤ 2 ^ 54 - 152 ∧ a.l1 ≤ 2 ^ 54 - 152 ∧ a.l2 ≤ 2 ^ 54 - 152 ∧ a.l3 ≤ 2 ^ 54 - 152 ∧ a.l4 ≤ 2 ^ 54 - 152

/-! ### Immediates, pairs and scalar bits (R85) -/

/-- FSETI's value: zext_64(imm) in limb 0, limbs 1 to 4 zero (R85, R146). -/
def setiValue (imm : BitVec 12) : Limbs := ⟨imm.toNat, 0, 0, 0, 0⟩

/-- The register of a pair's Z coordinate, F[r+1] for an even r (R85, R170). -/
def pairZ (r : FReg) : FReg := r + 1

/-- K[j] as 0 or 1 (R22). -/
def scalarBit (k : BitVec 256) (j : Nat) : Nat := (k.getLsbD j).toNat

/-! ### Buffers as integers (R10, R53, R54) -/

/-- LE(buf): word w has weight 2^(32w) (R54). -/
def bufferVal (b : Buffer) : Nat := b.toList.foldr (fun w n => w.toNat + 2 ^ 32 * n) 0

/-- toLE32(n) as eight words (R10, R54). -/
def toLE32 (n : Nat) : Buffer := Vector.ofFn fun w => BitVec.ofNat 32 (n >>> (32 * w.val))

/-- Byte j of a buffer: byte 4w + b is bits [8b+7:8b] of word w (R53). -/
def bufferByte (b : Buffer) (j : Fin 32) : Byte := BitVec.ofNat 8 (b[j.val / 4].toNat >>> (8 * (j.val % 4)))

end Sys2Proof.Machine
end

