-- ==== Sys2Proof/Machine/Ops.lean ====
section
/-! DEFINITION. The shared operations: registers and buffers, the OOB draw, the command lifecycle, taking CmdError,
reset. Taking the exception is `takeCmdError`; there is no return instruction (R244): the host's STATUS write and
`startCommand` clear what it left. -/

namespace Sys2Proof.Machine

/-! ### Field registers -/

/-- F[r] (R10, R20). -/
def readF (s : State) (r : FReg) : FieldReg := s.f[r.val]

/-- F[r] as numbers. -/
def fieldOf (s : State) (r : FReg) : Limbs := regLimbs (readF s r)

/-- `F[r] <- v` (R10, R20). No register is hardwired. -/
def writeF (s : State) (r : FReg) (v : FieldReg) : State := { s with f := s.f.set r.val v }

/-- The `n`-th OOB draw, five limbs (R111). Log 1. -/
def oobReg (n : Nat) : FieldReg :=
  ⟨Config.oobLimb n 0, Config.oobLimb n 1, Config.oobLimb n 2, Config.oobLimb n 3, Config.oobLimb n 4⟩

/-- A result register whose operands break their bound receives a fresh OOB draw; nothing else changes (R111). -/
def writeOob (s : State) (r : FReg) : State :=
  { writeF s r (oobReg s.oobDraws) with oobDraws := s.oobDraws + 1 }

/-- Clear F0 to F15 (R147). -/
def clearF (s : State) : State := { s with f := Vector.replicate 16 zeroReg }

/-- `K <- v` (R10, R22). -/
def writeK (s : State) (v : BitVec 256) : State := { s with k := v }

/-! ### Buffers and UOP -/

/-- `RESULT <- b` (R32). -/
def writeResult (s : State) (b : Buffer) : State := { s with result := b }

/-- A host write of SECRETw (R30). -/
def writeSecret (s : State) (w : Fin 8) (v : Word) : State := { s with secret := s.secret.set w.val v }

/-- A host write of POINTw (R31). -/
def writePoint (s : State) (w : Fin 8) (v : Word) : State := { s with point := s.point.set w.val v }

/-- A host write of UOP (R28). -/
def writeUop (s : State) (v : Word) : State := { s with uop := v }

/-! ### Command lifecycle -/

/-- A command starts: DONE, ERR and ERRCODE are cleared, OVR is kept, the latch takes the CMD value and UOP, the
phase is BUSY (R223). -/
def startCommand (v : Word) (s : State) : State :=
  { s with done := false, err := false, errcode := 0, latchCmd := v, latchUop := s.uop, busy := true }

/-- A command completes without error (R224): ERR and ERRCODE 0, DONE 1, IDLE. The latch is left as it is; log 11. -/
def finishCommand (s : State) : State := { s with err := false, errcode := 0, done := true, busy := false }

/-- TAKING THE EXCEPTION CmdError(c): the command completes at once with ERR 1 and ERRCODE the code, DONE 1, IDLE;
nothing else changes (R240, R242). -/
def takeCmdError (c : CmdError) (s : State) : State :=
  { s with err := true, errcode := errorCode c, done := true, busy := false }

/-- Go on from a next state; a fault or a refusal stays. -/
def andThen (o : Result) (k : State → Result) : Result :=
  match o with
  | .next s => k s
  | .fault r => .fault r
  | .refused r => .refused r

/-! ### The surroundings -/

/-- The input at the head has been taken; `rest` are still to come. -/
def takeInput (s : State) (rest : List Input) : State := { s with inputs := rest }

/-- Record the answer to a host access. -/
def respond (s : State) (r : HostResponse) : State := { s with response := r }

/-- The reset input is asserted: every register of the block takes its reset value and a running command is
aborted (R270). The surroundings' part is no register of the block and stays. Log 6. -/
def assertReset (s : State) : State :=
  { State.reset with inReset := true, inputs := s.inputs, response := s.response, oobDraws := s.oobDraws }

/-- The reset input is released; the block is IDLE (R270). -/
def releaseReset (s : State) : State := { s with inReset := false }

end Sys2Proof.Machine
end

