-- ==== Sys2Proof/Machine/HostPort.lean ====
section
/-! DEFINITION. The host register window: its map, reads, writes, the busy filter, and refused accesses
(10_state.md R24 to R32, 20_memory.md). -/

namespace Sys2Proof.Machine

/-- The registers of the window (R24). -/
inductive WindowReg where
  | id
  | cmd
  | status
  | uop
  | irqEn
  | reserved
  | secret (w : Fin 8)
  | point (w : Fin 8)
  | result (w : Fin 8)
deriving DecidableEq, Repr

/-- The register that holds the byte at `offset` of the window (R24). -/
def windowReg (offset : Fin 128) : WindowReg :=
  if offset.val < 0x04 then .id
  else if offset.val < 0x08 then .cmd
  else if offset.val < 0x0C then .status
  else if offset.val < 0x10 then .uop
  else if offset.val < 0x14 then .irqEn
  else if offset.val < 0x20 then .reserved
  else if offset.val < 0x40 then .secret (Fin.ofNat 8 ((offset.val - 0x20) / 4))
  else if offset.val < 0x60 then .point (Fin.ofNat 8 ((offset.val - 0x40) / 4))
  else .result (Fin.ofNat 8 ((offset.val - 0x60) / 4))

/-- The value of ID (R24, 92_eei_decisions.md D40). -/
def idValue : Word := 0x00025519

/-- What a read of a register returns; it has no side effect (R24 to R32, R55, R56). RESULT reads 0 while BUSY. -/
def readWindow (r : WindowReg) (s : State) : Word :=
  match r with
  | .id => idValue
  | .cmd => 0
  | .status => statusWord s
  | .uop => s.uop
  | .irqEn => irqEnWord s
  | .reserved => 0
  | .secret _ => 0
  | .point w => s.point[w.val]
  | .result w => if s.busy then 0 else s.result[w.val]

/-- A write to CMD, UOP, SECRETw or POINTw while BUSY is dropped and sets OVR (R25). -/
def unlessBusy (s : State) (t : State) : State := if s.busy then setOverrun s else t

/-- What a write to a register does (R24 to R32, R55). -/
def writeWindow (r : WindowReg) (v : Word) (s : State) : State :=
  match r with
  | .cmd => unlessBusy s (startCommand v s)
  | .status => writeStatus v s
  | .uop => unlessBusy s (writeUop s v)
  | .irqEn => writeIrqEn v s
  | .secret w => unlessBusy s (writeSecret s w v)
  | .point w => unlessBusy s (writePoint s w v)
  | .id | .reserved | .result _ => s

/-- An access the block takes: at a multiple of 4, 32 bits wide, all four strobes (R51, R52). -/
def accepted (offset : Fin 128) (a : HostAccess) : Bool :=
  offset.val % 4 == 0 && a.width == 32 && a.strobes == 0xF

/-- An access at an offset of the window: performed when accepted, refused with no effect otherwise (R52, R246). -/
def accessWindow (offset : Fin 128) (a : HostAccess) (s : State) : State :=
  if accepted offset a then
    match a.op with
    | .read => respond s (.data (readWindow (windowReg offset) s))
    | .write v => respond (writeWindow (windowReg offset) v s) .written
  else respond s .busError

/-- The host's turn. Outside the window the block sees nothing and the answer is the platform's (R50, D47, log 4).
An access to the window while reset is asserted is refused (93 I6, log 5). -/
def hostTurn (a : HostAccess) (s : State) : Result :=
  match a.target with
  | .outside => .next (respond s .platform)
  | .window offset => if s.inReset then .refused .accessDuringReset else .next (accessWindow offset a s)

/-! ### Building accesses -/

/-- Where a byte offset from BASE lands: offsets 0 to 0x7F are the window, every other is outside it (R50). -/
def targetOfOffset (offset : Nat) : Target :=
  if h : offset < windowBytes then .window ⟨offset, h⟩ else .outside

/-- Where a platform byte address lands: BASE to BASE + 0x7F is the window (R50). Log 7. -/
def targetOfAddress (addr : Nat) : Target :=
  if Config.base ≤ addr then targetOfOffset (addr - Config.base) else .outside

/-- A single 32-bit access with all four strobes (R51). -/
def singleAccess (target : Target) (op : HostOp) : Input := .host ⟨target, 32, 0xF, op⟩

/-- `MemRead(offset, 4)` of R10. -/
def memRead (offset : Fin 128) : Input := singleAccess (.window offset) .read

/-- `MemWrite(offset, 4, v)` of R10. -/
def memWrite (offset : Fin 128) (v : Word) : Input := singleAccess (.window offset) (.write v)

/-- A burst from address `n` on is its sequence of single accesses in address order, each where `locate` says its
address lands (R50, R51). Addresses do not wrap, so past the window its accesses are outside. Log 7. -/
def burst (locate : Nat → Target) (n : Nat) : List HostOp → List Input
  | [] => []
  | op :: ops => singleAccess (locate n) op :: burst locate (n + 4) ops

/-- A burst at a platform byte address (R50, R51). -/
def burstAtAddress (addr : Nat) (ops : List HostOp) : List Input := burst targetOfAddress addr ops

/-- A write burst from a byte offset on. -/
def burstWrites (offset : Nat) (vs : List Word) : List Input := burst targetOfOffset offset (vs.map .write)

/-- A read burst of `count` words from a byte offset on. -/
def burstReads (offset count : Nat) : List Input := burst targetOfOffset offset (List.replicate count .read)

/-- The host's sequence for one DERIVE up to completion: SECRET, POINT, CMD, then the engine's turn (R227). -/
def deriveInputs (secret point : Buffer) : List Input :=
  burstWrites 0x20 secret.toList ++ burstWrites 0x40 point.toList ++ [memWrite 0x04 0x00000001, .engine]

end Sys2Proof.Machine
end

