-- ==== Sys2Proof/Machine/FieldOps.lean ====
section
/-! DEFINITION. The pure functions of the field units, on exact natural numbers: what the pseudocode of R112 to R116
computes from operand values to a result value. Their meaning as micro-ops is in FieldArith.lean. -/

namespace Sys2Proof.Machine

/-! ### field_adder_subtractor -/

/-- FADD's result: limb by limb, no carry (R112). -/
def fieldAdd (a b : Limbs) : Limbs :=
  mkLimbs (a.l0 + b.l0) (a.l1 + b.l1) (a.l2 + b.l2) (a.l3 + b.l3) (a.l4 + b.l4)

/-- BIAS, the limbs of 8·p (R113, 90_conflicts.md C1). -/
def subBias : Limbs := ⟨2 ^ 54 - 152, 2 ^ 54 - 8, 2 ^ 54 - 8, 2 ^ 54 - 8, 2 ^ 54 - 8⟩

/-- FSUB's result: `a + BIAS - b`, limb by limb (R113). -/
def fieldSub (a b : Limbs) : Limbs :=
  mkLimbs (a.l0 + subBias.l0 - b.l0) (a.l1 + subBias.l1 - b.l1) (a.l2 + subBias.l2 - b.l2)
    (a.l3 + subBias.l3 - b.l3) (a.l4 + subBias.l4 - b.l4)

/-! ### field_multiplier_mod_p -/

/-- The accumulators t[0..4] of R114: a product of degree i + j ≥ 5 is added to t[i+j-5] times 19
(90_conflicts.md C2). -/
def mulColumns (a b : Limbs) : Limbs where
  l0 := a.l0 * b.l0 + 19 * (a.l1 * b.l4 + a.l2 * b.l3 + a.l3 * b.l2 + a.l4 * b.l1)
  l1 := a.l0 * b.l1 + a.l1 * b.l0 + 19 * (a.l2 * b.l4 + a.l3 * b.l3 + a.l4 * b.l2)
  l2 := a.l0 * b.l2 + a.l1 * b.l1 + a.l2 * b.l0 + 19 * (a.l3 * b.l4 + a.l4 * b.l3)
  l3 := a.l0 * b.l3 + a.l1 * b.l2 + a.l2 * b.l1 + a.l3 * b.l0 + 19 * (a.l4 * b.l4)
  l4 := a.l0 * b.l4 + a.l1 * b.l3 + a.l2 * b.l2 + a.l3 * b.l1 + a.l4 * b.l0

/-- The running sums of a radix-2^51 carry from limb 0 to limb 4: each limb plus the carry out of the one before
(the `s` of R114 and R116). -/
def carrySums (t : Limbs) : Limbs :=
  let s0 := t.l0
  let s1 := t.l1 + carry51 s0
  let s2 := t.l2 + carry51 s1
  let s3 := t.l3 + carry51 s2
  let s4 := t.l4 + carry51 s3
  mkLimbs s0 s1 s2 s3 s4

/-- FMUL's reduction of the accumulators: one carry pass, the final carry times 19 into limb 0, and the second
partial carry from limb 0 to 1 to 2 (R114, 90_conflicts.md C3). -/
def mulReduce (t : Limbs) : Limbs :=
  let s := carrySums t
  let u := low51 s.l0 + 19 * carry51 s.l4
  let v := low51 s.l1 + carry51 u
  mkLimbs (low51 u) (low51 v) (low51 s.l2 + carry51 v) (low51 s.l3) (low51 s.l4)

/-- FMUL's result (R114). -/
def fieldMul (a b : Limbs) : Limbs := mulReduce (mulColumns a b)

/-- SQ(x), which is FMUL's result for a = b = x limb for limb (R115). -/
def fieldSq (x : Limbs) : Limbs := fieldMul x x

/-- FSQR's result: SQ applied n times (R115). -/
def fieldSqTimes : Nat → Limbs → Limbs
  | 0, x => x
  | n + 1, x => fieldSqTimes n (fieldSq x)

/-- The ladder constant (A − 2)/4 with A = 486662 (R6, R116). -/
def ladderConstant : Nat := 121665

/-- FMULA24's result: every limb times 121665, one carry pass, the final carry times 19 into limb 0 (R116). -/
def fieldMulA24 (a : Limbs) : Limbs :=
  let s := carrySums ⟨a.l0 * ladderConstant, a.l1 * ladderConstant, a.l2 * ladderConstant, a.l3 * ladderConstant,
    a.l4 * ladderConstant⟩
  mkLimbs (low51 s.l0 + 19 * carry51 s.l4) (low51 s.l1) (low51 s.l2) (low51 s.l3) (low51 s.l4)

end Sys2Proof.Machine
end

