-- ==== Sys2Proof/Machine/EncodeDecode.lean ====
section
/-! DEFINITION. Encode, decode, clamp and the register-file micro-ops (41_encode_decode.md). -/

namespace Sys2Proof.Machine

/-! ### Expand and contract -/

/-- FLOAD: POINT's integer cut into limbs; bit 255 lands in none (R140). -/
def execFload (rd : FReg) (s : State) : Result :=
  .next (writeF s rd (limbsReg (expand (bufferVal s.point))))

/-- FSTORE: the canonical value in [0, p) of any limb pattern, little-endian into RESULT (R141). -/
def execFstore (ra : FReg) (s : State) : Result :=
  .next (writeResult s (toLE32 (limbsVal (fieldOf s ra) % fieldPrime)))

/-- One carry pass of the source's contract: limb 0 to limb 4, the final carry times 19 into limb 0 when `fold`,
dropped otherwise (R142). -/
def contractCarry (fold : Bool) (t : Limbs) : Limbs :=
  let s := carrySums t
  mkLimbs (low51 s.l0 + (if fold then 19 * carry51 s.l4 else 0)) (low51 s.l1) (low51 s.l2) (low51 s.l3) (low51 s.l4)

/-- The source's contract by passes, which an implementation may use; R141 governs (R142). -/
def contractByPasses (a : Limbs) : Nat :=
  let t := contractCarry true (contractCarry true a)
  let t := contractCarry true { t with l0 := t.l0 + 19 }
  let t := contractCarry false ⟨t.l0 + (2 ^ 51 - 19), t.l1 + (2 ^ 51 - 1), t.l2 + (2 ^ 51 - 1), t.l3 + (2 ^ 51 - 1),
    t.l4 + (2 ^ 51 - 1)⟩
  limbsVal t

/-! ### Clamp -/

/-- The clamp: bits 0, 1, 2 and 255 cleared, bit 254 set (R143). -/
def clampScalar (n : BitVec 256) : BitVec 256 :=
  (n &&& ~~~(BitVec.ofNat 256 (2 ^ 0 + 2 ^ 1 + 2 ^ 2)) &&& ~~~(BitVec.ofNat 256 (2 ^ 255))) |||
    BitVec.ofNat 256 (2 ^ 254)

/-- KLOAD: the clamped SECRET into K; SECRET is not changed (R143). -/
def execKload (s : State) : Result :=
  .next (writeK s (clampScalar (BitVec.ofNat 256 (bufferVal s.secret))))

/-! ### Register file -/

/-- FMOV: all five limbs copied (R145). -/
def execFmov (rd ra : FReg) (s : State) : Result := .next (writeF s rd (readF s ra))

/-- FSETI: [zext_64(imm), 0, 0, 0, 0] (R146). -/
def execFseti (rd : FReg) (imm : BitVec 12) (s : State) : Result := .next (writeF s rd (limbsReg (setiValue imm)))

/-- WIPE: F0 to F15 and K cleared, nothing else (R147). -/
def execWipe (s : State) : Result := .next (writeK (clearF s) 0)

end Sys2Proof.Machine
end

