-- ==== Sys2Proof/Machine/FieldArith.lean ====
section
/-! DEFINITION. Field arithmetic micro-ops (40_field_arithmetic.md). Every source is read before F[rd] is written, and
an out-of-bound operand gives an OOB draw and no error (R110, R111). -/

namespace Sys2Proof.Machine

/-- FADD (R112). -/
def execFadd (rd ra rb : FReg) (s : State) : Result :=
  let a := fieldOf s ra
  let b := fieldOf s rb
  .next (if AddInBound a b then writeF s rd (limbsReg (fieldAdd a b)) else writeOob s rd)

/-- FSUB (R113). -/
def execFsub (rd ra rb : FReg) (s : State) : Result :=
  let a := fieldOf s ra
  let b := fieldOf s rb
  .next (if SubInBound a b then writeF s rd (limbsReg (fieldSub a b)) else writeOob s rd)

/-- FMUL (R114). -/
def execFmul (rd ra rb : FReg) (s : State) : Result :=
  let a := fieldOf s ra
  let b := fieldOf s rb
  .next (if MulInBound a ∧ MulInBound b then writeF s rd (limbsReg (fieldMul a b)) else writeOob s rd)

/-- FSQR (R115). A count of 0 is BAD_OPERAND and writes nothing (R87); the decoder never gives one. Log 10. -/
def execFsqr (rd ra : FReg) (count : BitVec 12) (s : State) : Result :=
  let a := fieldOf s ra
  if count = 0 then .next (takeCmdError .badOperand s)
  else .next (if MulInBound a then writeF s rd (limbsReg (fieldSqTimes count.toNat a)) else writeOob s rd)

/-- FMULA24 (R116). -/
def execFmula24 (rd ra : FReg) (s : State) : Result :=
  let a := fieldOf s ra
  .next (if MulInBound a then writeF s rd (limbsReg (fieldMulA24 a)) else writeOob s rd)

end Sys2Proof.Machine
end

