-- ==== Sys2Proof/Machine/Inversion.lean ====
section
/-! DEFINITION. Field inversion by the fixed addition chain (43_inversion.md). -/

namespace Sys2Proof.Machine

/-- FINV's result, the chain of R200. Each line's comment is the exponent of z reached. -/
def fieldInv (z : Limbs) : Limbs :=
  let a := fieldSqTimes 1 z      -- 2
  let t0 := fieldSqTimes 2 a     -- 8
  let b := fieldMul t0 z         -- 9
  let a := fieldMul b a          -- 11
  let t0 := fieldSqTimes 1 a     -- 22
  let b := fieldMul t0 b         -- 2^5 - 1
  let t0 := fieldSqTimes 5 b     -- 2^10 - 2^5
  let b := fieldMul t0 b         -- 2^10 - 1
  let t0 := fieldSqTimes 10 b    -- 2^20 - 2^10
  let c := fieldMul t0 b         -- 2^20 - 1
  let t0 := fieldSqTimes 20 c    -- 2^40 - 2^20
  let t0 := fieldMul t0 c        -- 2^40 - 1
  let t0 := fieldSqTimes 10 t0   -- 2^50 - 2^10
  let b := fieldMul t0 b         -- 2^50 - 1
  let t0 := fieldSqTimes 50 b    -- 2^100 - 2^50
  let c := fieldMul t0 b         -- 2^100 - 1
  let t0 := fieldSqTimes 100 c   -- 2^200 - 2^100
  let t0 := fieldMul t0 c        -- 2^200 - 1
  let t0 := fieldSqTimes 50 t0   -- 2^250 - 2^50
  let t0 := fieldMul t0 b        -- 2^250 - 1
  let t0 := fieldSqTimes 5 t0    -- 2^255 - 2^5
  fieldMul t0 a                  -- 2^255 - 21 = p - 2

/-- FINV (R200). The temporaries are private; only F[rd] is written (R34). -/
def execFinv (rd ra : FReg) (s : State) : Result :=
  let z := fieldOf s ra
  .next (if MulInBound z then writeF s rd (limbsReg (fieldInv z)) else writeOob s rd)

end Sys2Proof.Machine
end

