-- ==== Sys2Proof/Machine/Ladder.lean ====
section
/-! DEFINITION. Conditional swap, ladder step and scalar multiplication (42_ladder.md). -/

namespace Sys2Proof.Machine

/-! ### conditional_swap_projective -/

/-- The swap mask: all ones for bit 1, zero for bit 0 (R170). -/
def swapMask (bit : Nat) : Nat := (2 ^ 64 - bit) % 2 ^ 64

/-- One masked exchange of two field values: m = mask & (x ^ y), then x ^ m and y ^ m, limb by limb (R170). -/
def maskedSwap (mask : Nat) (x y : Limbs) : Limbs × Limbs :=
  let m0 := mask &&& (x.l0 ^^^ y.l0)
  let m1 := mask &&& (x.l1 ^^^ y.l1)
  let m2 := mask &&& (x.l2 ^^^ y.l2)
  let m3 := mask &&& (x.l3 ^^^ y.l3)
  let m4 := mask &&& (x.l4 ^^^ y.l4)
  (mkLimbs (x.l0 ^^^ m0) (x.l1 ^^^ m1) (x.l2 ^^^ m2) (x.l3 ^^^ m3) (x.l4 ^^^ m4),
   mkLimbs (y.l0 ^^^ m0) (y.l1 ^^^ m1) (y.l2 ^^^ m2) (y.l3 ^^^ m3) (y.l4 ^^^ m4))

/-- The register pairs (F[ra], F[ra+1]) and (F[rb], F[rb+1]) exchanged under the mask of `bit`, the X pair and then
the Z pair (R170). -/
def swapPoints (ra rb : FReg) (bit : Nat) (s : State) : State :=
  let x := maskedSwap (swapMask bit) (fieldOf s ra) (fieldOf s rb)
  let z := maskedSwap (swapMask bit) (fieldOf s (pairZ ra)) (fieldOf s (pairZ rb))
  writeF (writeF (writeF (writeF s ra (limbsReg x.1)) rb (limbsReg x.2)) (pairZ ra) (limbsReg z.1)) (pairZ rb)
    (limbsReg z.2)

/-- CSWAP on bit K[bit] (R170). An odd ra or rb is BAD_OPERAND (R87); the decoder never gives one. Log 10. -/
def execCswap (ra rb : FReg) (bit : BitVec 8) (s : State) : Result :=
  if pairBase ra && pairBase rb then .next (swapPoints ra rb (scalarBit s.k bit.toNat) s)
  else .next (takeCmdError .badOperand s)

/-! ### montgomery_ladder_engine -/

/-- The two projective points of the ladder, R0 = (nqx : nqz) and R1 = (nqpqx : nqpqz), the source's names (R21). -/
@[ext]
structure PointPair where
  nqx : Limbs
  nqz : Limbs
  nqpqx : Limbs
  nqpqz : Limbs
deriving DecidableEq, Repr

/-- The ladder step: from Q and Q′ and qmqp to 2Q and Q + Q′, the pseudocode of R171 line by line. -/
def ladderStep (q : Limbs) (s : PointPair) : PointPair :=
  let A := fieldAdd s.nqx s.nqz
  let B := fieldSub s.nqx s.nqz
  let C := fieldAdd s.nqpqx s.nqpqz
  let D := fieldSub s.nqpqx s.nqpqz
  let DA := fieldMul C B
  let CB := fieldMul A D
  let S := fieldAdd DA CB
  let T := fieldSub DA CB
  let x3 := fieldSq S
  let TT := fieldSq T
  let z3 := fieldMul TT q
  let AA := fieldSq A
  let BB := fieldSq B
  let x2 := fieldMul AA BB
  let E := fieldSub AA BB
  let G := fieldMulA24 E
  let H := fieldAdd G AA
  let z2 := fieldMul E H
  ⟨x2, z2, x3, z3⟩

/-- The points in F0 to F3 (R21). -/
def readPoints (s : State) : PointPair := ⟨fieldOf s 0, fieldOf s 1, fieldOf s 2, fieldOf s 3⟩

/-- Write the points to F0 to F3 (R21). -/
def writePoints (s : State) (p : PointPair) : State :=
  writeF (writeF (writeF (writeF s 0 (limbsReg p.nqx)) 1 (limbsReg p.nqz)) 2 (limbsReg p.nqpqx)) 3 (limbsReg p.nqpqz)

/-- F0 to F3 each receive an OOB draw of their own, in this order (R111, R171). Log 13. -/
def writePointsOob (s : State) : State := writeOob (writeOob (writeOob (writeOob s 0) 1) 2) 3

/-- LSTEP's precondition: the point coordinates ≤ 2^54 − 152, F4 < 2^55 (R171). -/
abbrev StepInBound (p : PointPair) (q : Limbs) : Prop :=
  PointInBound p.nqx ∧ PointInBound p.nqz ∧ PointInBound p.nqpqx ∧ PointInBound p.nqpqz ∧ MulInBound q

/-- LSTEP (R171). -/
def execLstep (s : State) : Result :=
  let p := readPoints s
  let q := fieldOf s 4
  .next (if StepInBound p q then writePoints s (ladderStep q p) else writePointsOob s)

/-- The conditional swap of the ladder's two points, R170 with ra = 0 and rb = 2 (R173). -/
def swapPair (bit : Nat) (p : PointPair) : PointPair :=
  let x := maskedSwap (swapMask bit) p.nqx p.nqpqx
  let z := maskedSwap (swapMask bit) p.nqz p.nqpqz
  ⟨x.1, z.1, x.2, z.2⟩

/-- One iteration of the ladder on one scalar bit: swap, step, swap (R173, R176). -/
def ladderIteration (q : Limbs) (bit : Nat) (p : PointPair) : PointPair :=
  swapPair bit (ladderStep q (swapPair bit p))

/-- The iterations for bits n − 1 down to 0 of the scalar, most significant first (R173, R176). -/
def ladderLoop (k : BitVec 256) (q : Limbs) : Nat → PointPair → PointPair
  | 0, p => p
  | n + 1, p => ladderLoop k q n (ladderIteration q (scalarBit k n) p)

/-- The iterations of one scalar multiplication (R6, R175). -/
def ladderIterations : Nat := 256

/-- SMUL's initial points: R0 = (1 : 0), R1 = (q : 1) (R173, 90_conflicts.md C5). -/
def ladderStart (q : Limbs) : PointPair := ⟨expand 1, expand 0, q, expand 1⟩

/-- SMUL's result: all 256 bits of the scalar, always (R173, R175). -/
def scalarMul (k : BitVec 256) (q : Limbs) : PointPair := ladderLoop k q ladderIterations (ladderStart q)

/-- SMUL (R173). Its precondition bounds F4; outside it F0 to F3 receive OOB draws (R111, R222). Log 13. -/
def execSmul (s : State) : Result :=
  let q := fieldOf s 4
  .next (if PointInBound q then writePoints s (scalarMul s.k q) else writePointsOob s)

end Sys2Proof.Machine
end

