-- ==== Sys2Proof/Machine/TopLevel.lean ====
section
/-! DEFINITION. The two commands, the engine's completion step, and placing a word to run (44_top_level.md). -/

namespace Sys2Proof.Machine

/-- `execute(op)` of R220 and R222: the micro-op's own rule. A command is no micro-op: its word has OPC 0x00, which
is BAD_OPCODE (R86, R87); the micro-op decoder never gives one. Log 10. -/
def executeUop (i : Instr) (s : State) : Result :=
  match i with
  | .fadd rd ra rb => execFadd rd ra rb s
  | .fsub rd ra rb => execFsub rd ra rb s
  | .fmul rd ra rb => execFmul rd ra rb s
  | .fsqr rd ra count => execFsqr rd ra count s
  | .fmula24 rd ra => execFmula24 rd ra s
  | .fmov rd ra => execFmov rd ra s
  | .fseti rd imm => execFseti rd imm s
  | .cswap ra rb bit => execCswap ra rb bit s
  | .kload => execKload s
  | .fload rd => execFload rd s
  | .fstore ra => execFstore ra s
  | .finv rd ra => execFinv rd ra s
  | .lstep => execLstep s
  | .smul => execSmul s
  | .wipe => execWipe s
  | .derive => .next (takeCmdError .badOpcode s)
  | .execUop => .next (takeCmdError .badOpcode s)

/-! ### DERIVE -/

/-- The DERIVE ROM: kload; fload f4; smul; finv f5, f1; fmul f0, f0, f5; fstore f0; wipe (R220). -/
def deriveRom : List Word :=
  [0x09000000, 0x0A400000, 0x0E000000, 0x0C510000, 0x03005000, 0x0B000000, 0x0F000000]

/-- Decode and execute the ROM words in order (R220). -/
def runRom : List Word → State → Result
  | [], s => .next s
  | w :: ws, s =>
    match decodeUop w with
    | .ok i => andThen (executeUop i s) (runRom ws)
    | .error c => .next (takeCmdError c s)

/-- DERIVE: the ROM program, then completion without error (R220, R224). -/
def execDerive (s : State) : Result := andThen (runRom deriveRom s) fun t => .next (finishCommand t)

/-- derive(s, b) of R221 as a function of the two buffers, before toLE32. -/
def deriveValue (secret point : Buffer) : Nat :=
  let r := scalarMul (clampScalar (BitVec.ofNat 256 (bufferVal secret))) (expand (bufferVal point))
  limbsVal (fieldMul r.nqx (fieldInv r.nqz)) % fieldPrime

/-! ### EXEC_UOP -/

/-- EXEC_UOP: decode the latched micro-op word; an error is taken and nothing is executed; otherwise the micro-op's
rule, then completion without error (R222, R224). -/
def execExecUop (s : State) : Result :=
  match decodeUop s.latchUop with
  | .ok i => andThen (executeUop i s) fun t => .next (finishCommand t)
  | .error c => .next (takeCmdError c s)

/-! ### The engine -/

/-- The completion step: the latched command word is decoded and the command runs, `run` being exec (R224). -/
def completeCommand (run : Instr → State → Result) (s : State) : Result :=
  match decodeCmd s.latchCmd with
  | .ok i => run i s
  | .error c => .next (takeCmdError c s)

/-- The engine's turn: the completion step while BUSY, nothing while IDLE or in reset (R224, R254). Log 16. -/
def engineTurn (run : Instr → State → Result) (s : State) : Result :=
  if s.busy && !s.inReset then completeCommand run s else .next s

/-! ### Placing a word to run -/

/-- The word is placed as the host places it: a command word (1 or 2) is written to CMD; any other word is written
to UOP and EXEC_UOP to CMD (R223). No input comes before the engine's turn. Log 9. -/
def placeWord (w : Word) (s : State) : State :=
  let s := { s with inputs := [], inReset := false, busy := false }
  match decodeCmd w with
  | .ok _ => startCommand w s
  | .error _ => startCommand 0x00000002 (writeUop s w)

end Sys2Proof.Machine
end

