-- ==== Sys2Proof/Machine/Dispatch.lean ====
section
/-! DEFINITION. The one match from an instruction to its meaning. -/

namespace Sys2Proof.Machine

def exec (i : Instr) (s : State) : Host.Outcome State Fault Refusal :=
  match i with
  | .fadd rd ra rb => Sys2Proof.Machine.execFadd rd ra rb s
  | .fsub rd ra rb => Sys2Proof.Machine.execFsub rd ra rb s
  | .fmul rd ra rb => Sys2Proof.Machine.execFmul rd ra rb s
  | .fsqr rd ra count => Sys2Proof.Machine.execFsqr rd ra count s
  | .fmula24 rd ra => Sys2Proof.Machine.execFmula24 rd ra s
  | .fmov rd ra => Sys2Proof.Machine.execFmov rd ra s
  | .fseti rd imm => Sys2Proof.Machine.execFseti rd imm s
  | .cswap ra rb bit => Sys2Proof.Machine.execCswap ra rb bit s
  | .kload => Sys2Proof.Machine.execKload s
  | .fload rd => Sys2Proof.Machine.execFload rd s
  | .fstore ra => Sys2Proof.Machine.execFstore ra s
  | .finv rd ra => Sys2Proof.Machine.execFinv rd ra s
  | .lstep => Sys2Proof.Machine.execLstep s
  | .smul => Sys2Proof.Machine.execSmul s
  | .wipe => Sys2Proof.Machine.execWipe s
  | .derive => Sys2Proof.Machine.execDerive s
  | .execUop => Sys2Proof.Machine.execExecUop s

end Sys2Proof.Machine
end

