-- ==== Sys2Proof/Machine/Step.lean ====
section
/-! DEFINITION. One step of the machine, and placing an opcode-table word where the next step runs it. -/

namespace Sys2Proof.Machine

/-- One step: the next input of the surroundings is taken (R225, R249); with none left it is the engine's turn
(log 2). -/
def step (s : State) : Host.Outcome State Fault Refusal :=
  match s.inputs with
  | [] => engineTurn exec s
  | .engine :: rest => engineTurn exec (takeInput s rest)
  | .host a :: rest => hostTurn a (takeInput s rest)
  | .resetAssert :: rest => .next (assertReset (takeInput s rest))
  | .resetRelease :: rest => .next (releaseReset (takeInput s rest))

/-- `s` with an opcode-table word placed so that the very next step fetches and runs it (log 9). -/
def State.withFetchWord (s : State) (nbits w : Nat) : State := placeWord (BitVec.ofNat 32 (tableWord nbits w)) s

end Sys2Proof.Machine
end

