-- ==== Sys2Proof/Safety.lean ====
section
/-! DEFINITION. What the claims are stated in: frames, the invariant, what an observer of timing sees, and readings of
the spec that are independent of the meanings (the loops of the multiplies, the ladder over the integers mod p). -/

namespace Sys2Proof.Machine

/-! ### Values and frames -/

/-- val(F[r]) (R9). -/
def valOf (s : State) (r : FReg) : Nat := limbsVal (fieldOf s r)

/-- Congruence mod p of two integers (R9). -/
abbrev CongP (a b : Int) : Prop := Int.ModEq (fieldPrime : Int) a b

/-- From `s` to `t` nothing changed but field registers in `dst`: K, every byte of SECRET, POINT and RESULT, UOP,
IRQ_EN, STATUS, the latch, the surroundings' part and the count of draws are those of `s`. -/
def OnlyFieldRegs (dst : List FReg) (s t : State) : Prop :=
  t = { s with f := t.f } ∧ ∀ r, r ∉ dst → readF t r = readF s r

/-- The same where `n` OOB values were drawn. -/
def OnlyFieldRegsDrawing (n : Nat) (dst : List FReg) (s t : State) : Prop :=
  t = { s with f := t.f, oobDraws := s.oobDraws + n } ∧ ∀ r, r ∉ dst → readF t r = readF s r

/-- The field registers an instruction may write (R110, R147, R171, R173, R220); of EXEC_UOP's micro-op it says
nothing. -/
def destRegs : Instr → List FReg
  | .fadd rd _ _ | .fsub rd _ _ | .fmul rd _ _ | .fsqr rd _ _ | .fmula24 rd _ | .fmov rd _ | .fseti rd _ => [rd]
  | .cswap ra rb _ => [ra, pairZ ra, rb, pairZ rb]
  | .fload rd | .finv rd _ => [rd]
  | .lstep | .smul => [0, 1, 2, 3]
  | .kload | .fstore _ => []
  | .wipe | .derive | .execUop => List.finRange 16

/-- Is it a micro-op (R86)? The other two rows are commands (R82). -/
def isUop : Instr → Bool
  | .derive | .execUop => false
  | .fadd _ _ _ | .fsub _ _ _ | .fmul _ _ _ | .fsqr _ _ _ | .fmula24 _ _ | .fmov _ _ | .fseti _ _ => true
  | .cswap _ _ _ | .kload | .fload _ | .fstore _ | .finv _ _ | .lstep | .smul | .wipe => true

/-! ### The invariant -/

/-- The legal STATUS states of R27, and the ERRCODE values of R241. -/
def StatusLegal (s : State) : Prop :=
  (s.busy = true → s.done = false ∧ s.err = false ∧ s.errcode = 0) ∧ (s.err = false → s.errcode = 0) ∧
    (s.err = true → 1 ≤ s.errcode.toNat ∧ s.errcode.toNat ≤ 4)

/-- K is 0 or holds a clamped scalar (R22, R144). -/
def ScalarLegal (s : State) : Prop :=
  s.k = 0 ∨ (s.k.toNat % 8 = 0 ∧ 2 ^ 254 ≤ s.k.toNat ∧ s.k.toNat ≤ 2 ^ 255 - 8)

/-- RESULT is a canonical encoding, in [0, p) (R32, R141). -/
def ResultCanonical (s : State) : Prop := bufferVal s.result < fieldPrime

/-- While the reset input is asserted every register of the block is at its reset value (R270). -/
def ResetHolds (s : State) : Prop := s.inReset = true → s = assertReset s

/-- The invariant of the machine. -/
def Inv (s : State) : Prop := StatusLegal s ∧ ScalarLegal s ∧ ResultCanonical s ∧ ResetHolds s

/-! ### Observations -/

/-- Two states that agree on everything but data: STATUS, IRQ_EN, UOP, the latch, the reset line and the inputs to
come. SECRET, POINT, RESULT, F and K are free (R275). -/
def SameControl (s t : State) : Prop :=
  s.busy = t.busy ∧ s.done = t.done ∧ s.err = t.err ∧ s.ovr = t.ovr ∧ s.errcode = t.errcode ∧ s.doneIe = t.doneIe ∧
    s.uop = t.uop ∧ s.latchCmd = t.latchCmd ∧ s.latchUop = t.latchUop ∧ s.inReset = t.inReset ∧ s.inputs = t.inputs

/-- The states of a run of instructions one after the other, each with exec. -/
def runInstrs : List Instr → State → Result
  | [], s => .next s
  | i :: is, s => andThen (exec i s) (runInstrs is)

/-! ### The multiplies as the loops of R114 and R116 write them -/

/-- Limb i of a field value. -/
def limbAt (a : Limbs) (i : Nat) : Nat :=
  match i with
  | 0 => a.l0
  | 1 => a.l1
  | 2 => a.l2
  | 3 => a.l3
  | _ => a.l4

/-- What the loops over i and j add to t[k] (R114). -/
def columnByLoops (a b : Limbs) (k : Nat) : Nat :=
  ((List.range 5).map fun i => ((List.range 5).map fun j =>
    if i + j < 5 then (if i + j = k then limbAt a i * limbAt b j else 0)
    else (if i + j - 5 = k then 19 * limbAt a i * limbAt b j else 0)).sum).sum

/-- The loop over k from 0 to 4 of R114 and R116 on the columns `t k`, from the carry `c`: the masked limbs and the
final carry. -/
def carryByLoop (t : Nat → Nat) : List Nat → Nat → List Nat × Nat
  | [], c => ([], c)
  | k :: ks, c =>
    let s := t k + c
    let r := carryByLoop t ks (s / 2 ^ 51)
    (s % 2 ^ 51 :: r.1, r.2)

/-- R114's pseudocode, with division and remainder for shift and mask. -/
def mulByLoops (a b : Limbs) : List Nat :=
  let r := carryByLoop (columnByLoops a b) (List.range 5) 0
  let u := r.1.getD 0 0 + 19 * r.2
  let v := r.1.getD 1 0 + u / 2 ^ 51
  [u % 2 ^ 51, v % 2 ^ 51, r.1.getD 2 0 + v / 2 ^ 51, r.1.getD 3 0, r.1.getD 4 0]

/-- R116's pseudocode, with division and remainder for shift and mask. -/
def mulA24ByLoop (a : Limbs) : List Nat :=
  let r := carryByLoop (fun k => limbAt a k * 121665) (List.range 5) 0
  [r.1.getD 0 0 + 19 * r.2, r.1.getD 1 0, r.1.getD 2 0, r.1.getD 3 0, r.1.getD 4 0]

/-- The limbs as a list, limb 0 first. -/
def limbList (a : Limbs) : List Nat := [a.l0, a.l1, a.l2, a.l3, a.l4]

/-! ### The ladder over the integers (R172, R173) -/

/-- Two points (x : z) and (x′ : z′) over the integers, to be read mod p. -/
structure IntPoints where
  x : Int
  z : Int
  x' : Int
  z' : Int
deriving DecidableEq, Repr

/-- The formulas of R172. -/
def intStep (q : Int) (v : IntPoints) : IntPoints :=
  let e := (v.x + v.z) ^ 2 - (v.x - v.z) ^ 2
  ⟨(v.x + v.z) ^ 2 * (v.x - v.z) ^ 2,
   e * ((v.x + v.z) ^ 2 + 121665 * e),
   ((v.x' + v.z') * (v.x - v.z) + (v.x + v.z) * (v.x' - v.z')) ^ 2,
   q * ((v.x' + v.z') * (v.x - v.z) - (v.x + v.z) * (v.x' - v.z')) ^ 2⟩

/-- Exchange the points when the bit is 1. -/
def intSwap (bit : Bool) (v : IntPoints) : IntPoints := if bit then ⟨v.x', v.z', v.x, v.z⟩ else v

/-- Every coordinate mod p, so that the numbers stay small. -/
def intReduce (v : IntPoints) : IntPoints :=
  ⟨v.x % fieldPrime, v.z % fieldPrime, v.x' % fieldPrime, v.z' % fieldPrime⟩

/-- Iterations for the bits n − 1 down to 0 of the scalar: swap, step, swap (R173). -/
def intLadder (k : BitVec 256) (q : Int) : Nat → IntPoints → IntPoints
  | 0, v => v
  | n + 1, v =>
    intLadder k q n (intReduce (intSwap (k.getLsbD n) (intStep q (intSwap (k.getLsbD n) v))))

/-- The 256 iterations from (1 : 0) and (q : 1) (R173). -/
def intScalarMul (k : BitVec 256) (q : Int) : IntPoints := intLadder k q 256 ⟨1, 0, q, 1⟩

/-- X/Z by Fermat's exponent: the function derive over the integers mod p (R221). -/
def intDerive (secret point : Buffer) : Int :=
  let v := intScalarMul (clampScalar (BitVec.ofNat 256 (bufferVal secret))) ((bufferVal point % 2 ^ 255 : Nat) : Int)
  v.x * v.z ^ (fieldPrime - 2) % fieldPrime

end Sys2Proof.Machine
end

