-- ==== Sys2Proof/Certificates/Slice0/Obligations.lean ====
section
/-! DEFINITION. The statements for the provers. Each docstring names the rules of spec/ it rests on. -/

open Sys2Proof Sys2Proof.Machine

/-! ### Encoding -/

/-- R91: the worked encodings, each the encoding of its instruction and decoding to it, and the four illegal words
with the error each raises. -/
def Obligations.WorkedEncodingsDecode : Prop :=
  [encode (.fadd 3 1 2), encode (.fsub 3 1 2), encode (.fmul 0 0 5), encode (.fsqr 6 2 5), encode (.fsqr 1 1 4095),
    encode (.fmula24 9 8), encode (.fmov 10 4), encode (.fseti 0 1), encode (.cswap 0 2 254), encode .kload,
    encode (.fload 4), encode (.fstore 0), encode (.finv 5 1), encode .lstep, encode .smul, encode .wipe] =
  [0x01312000, 0x02312000, 0x03005000, 0x04620005, 0x04110FFF, 0x05980000, 0x06A40000, 0x07000001, 0x080020FE,
    0x09000000, 0x0A400000, 0x0B000000, 0x0C510000, 0x0D000000, 0x0E000000, 0x0F000000] ∧
  decodeUop 0x01312000 = .ok (.fadd 3 1 2) ∧ decodeUop 0x02312000 = .ok (.fsub 3 1 2) ∧
  decodeUop 0x03005000 = .ok (.fmul 0 0 5) ∧ decodeUop 0x04620005 = .ok (.fsqr 6 2 5) ∧
  decodeUop 0x04110FFF = .ok (.fsqr 1 1 4095) ∧ decodeUop 0x05980000 = .ok (.fmula24 9 8) ∧
  decodeUop 0x06A40000 = .ok (.fmov 10 4) ∧ decodeUop 0x07000001 = .ok (.fseti 0 1) ∧
  decodeUop 0x080020FE = .ok (.cswap 0 2 254) ∧ decodeUop 0x09000000 = .ok .kload ∧
  decodeUop 0x0A400000 = .ok (.fload 4) ∧ decodeUop 0x0B000000 = .ok (.fstore 0) ∧
  decodeUop 0x0C510000 = .ok (.finv 5 1) ∧ decodeUop 0x0D000000 = .ok .lstep ∧
  decodeUop 0x0E000000 = .ok .smul ∧ decodeUop 0x0F000000 = .ok .wipe ∧
  decodeUop 0x04110000 = .error .badOperand ∧ decodeUop 0x080120FE = .error .badOperand ∧
  decodeUop 0x01312001 = .error .badField ∧ decodeUop 0x10000000 = .error .badOpcode

/-- R82: the exact word selects the command, and every other word is BAD_CMD. -/
def Obligations.CommandWordsAreExact : Prop :=
  ∀ w : Word, decodeCmd w =
    if w.toNat = 1 then .ok .derive else if w.toNat = 2 then .ok .execUop else .error .badCmd

/-- Every well-formed instruction, with every operand at every value, is what its encoding decodes to, in the word
kind it belongs to and among all words (R82, R84, R85, R86, R88). -/
def Obligations.DecodeOfEncodeIsInstr : Prop :=
  ∀ i : Instr, i.wellFormed = true →
    (isUop i = true → decodeUop (encode i) = .ok i) ∧ (isUop i = false → decodeCmd (encode i) = .ok i) ∧
    decodeTableWord 32 (encode i).toNat = some i

/-- The other direction: a word that decodes is the encoding of what it decodes to, which is well formed; so every
legal word has exactly one meaning (R84, R87, R88; 92 D11). -/
def Obligations.EncodeOfDecodeIsWord : Prop :=
  ∀ (w : Word) (i : Instr), (decodeUop w = .ok i ∨ decodeCmd w = .ok i) → encode i = w ∧ i.wellFormed = true

/-- R88's checks in R243's order, on the bits of the word: BAD_OPCODE exactly for OPC 0x00 or at least 0x10;
BAD_FIELD exactly for a legal OPC with a 1 under its mask; BAD_OPERAND exactly for what is left of FSQR with count 0
and CSWAP with an odd ra or rb; BAD_CMD never. -/
def Obligations.MicroOpErrorsFollowPriority : Prop :=
  ∀ w : Word,
    let opc := w.toNat / 2 ^ 24
    let masked := w &&& reservedZeroMask opc ≠ 0
    let badOp := (opc = 4 ∧ w.toNat % 2 ^ 12 = 0) ∨ (opc = 8 ∧ (w.getLsbD 16 = true ∨ w.getLsbD 12 = true))
    (decodeUop w = .error .badOpcode ↔ (opc = 0 ∨ 16 ≤ opc)) ∧
    (decodeUop w = .error .badField ↔ (1 ≤ opc ∧ opc < 16 ∧ masked)) ∧
    (decodeUop w = .error .badOperand ↔ (¬ masked ∧ badOp)) ∧
    decodeUop w ≠ .error .badCmd

/-! ### Field arithmetic -/

/-- FADD (R110, R112) on in-bound operands: the limb sums, below 2^55, and the sum of the values; only F[rd] changes.
Any of rd, ra, rb may be equal. -/
def Obligations.FaddAddsLimbwise : Prop :=
  ∀ (rd ra rb : FReg) (s : State), AddInBound (fieldOf s ra) (fieldOf s rb) →
    ∃ t, exec (.fadd rd ra rb) s = .next t ∧
      (∀ k, k < 5 → limbAt (fieldOf t rd) k = limbAt (fieldOf s ra) k + limbAt (fieldOf s rb) k) ∧
      LimbsBelow (2 ^ 55) (fieldOf t rd) ∧ valOf t rd = valOf s ra + valOf s rb ∧ OnlyFieldRegs [rd] s t

/-- FSUB (R110, R113) on in-bound operands: each limb a + BIAS − b with BIAS the limbs of 8·p, below 2^55, nothing
truncated; the value is val(a) + 8p − val(b); only F[rd] changes. -/
def Obligations.FsubSubtractsWithBias : Prop :=
  ∀ (rd ra rb : FReg) (s : State), SubInBound (fieldOf s ra) (fieldOf s rb) →
    ∃ t, exec (.fsub rd ra rb) s = .next t ∧
      (∀ k, k < 5 → limbAt (fieldOf t rd) k + limbAt (fieldOf s rb) k =
        limbAt (fieldOf s ra) k + (if k = 0 then 2 ^ 54 - 152 else 2 ^ 54 - 8)) ∧
      LimbsBelow (2 ^ 55) (fieldOf t rd) ∧ valOf t rd + valOf s rb = valOf s ra + 8 * fieldPrime ∧
      OnlyFieldRegs [rd] s t

/-- FMUL (R110, R114) on in-bound operands: the limbs R114's loops give, limbs 0, 1, 3, 4 below 2^51 and limb 2 at
most 2^51, congruent to the product; only F[rd] changes. -/
def Obligations.FmulMultipliesInBound : Prop :=
  ∀ (rd ra rb : FReg) (s : State), MulInBound (fieldOf s ra) → MulInBound (fieldOf s rb) →
    ∃ t, exec (.fmul rd ra rb) s = .next t ∧
      limbList (fieldOf t rd) = mulByLoops (fieldOf s ra) (fieldOf s rb) ∧
      (fieldOf t rd).l0 < 2 ^ 51 ∧ (fieldOf t rd).l1 < 2 ^ 51 ∧ (fieldOf t rd).l2 ≤ 2 ^ 51 ∧
      (fieldOf t rd).l3 < 2 ^ 51 ∧ (fieldOf t rd).l4 < 2 ^ 51 ∧
      CongP (valOf t rd) (valOf s ra * valOf s rb) ∧ OnlyFieldRegs [rd] s t

/-- The multiply is symmetric limb for limb (R171, corner case; R114), and FSQR with count 1 is FMUL of a register by
itself (R115). Both hold in every state: that two runs draw the same value where an operand is out of bound is no rule
of the spec (R111) but the model's choice of one sequence of draws (log 1, DESIGN CHOICE). -/
def Obligations.FmulIsSymmetricAndSquares : Prop :=
  (∀ a b : Limbs, fieldMul a b = fieldMul b a) ∧
    ∀ (rd ra rb : FReg) (s : State), exec (.fmul rd ra rb) s = exec (.fmul rd rb ra) s ∧
      exec (.fsqr rd ra 1) s = exec (.fmul rd ra ra) s

/-- FSQR (R110, R115) with count 1 to 4095 on an in-bound operand: the limbs are FMUL(x, x) iterated, congruent to
the operand to the power 2^n, limb 2 at most 2^51 and the others below; only F[rd] changes. -/
def Obligations.FsqrSquaresCountTimes : Prop :=
  ∀ (rd ra : FReg) (count : BitVec 12) (s : State), count ≠ 0 → MulInBound (fieldOf s ra) →
    ∃ t, exec (.fsqr rd ra count) s = .next t ∧
      fieldOf t rd = (fun x => fieldMul x x)^[count.toNat] (fieldOf s ra) ∧
      (fieldOf t rd).l0 < 2 ^ 51 ∧ (fieldOf t rd).l1 < 2 ^ 51 ∧ (fieldOf t rd).l2 ≤ 2 ^ 51 ∧
      (fieldOf t rd).l3 < 2 ^ 51 ∧ (fieldOf t rd).l4 < 2 ^ 51 ∧
      CongP (valOf t rd) (valOf s ra ^ 2 ^ count.toNat) ∧ OnlyFieldRegs [rd] s t

/-- FMULA24 (R110, R111, R116) on an in-bound operand: the limbs R116's loop gives, limbs 1 to 4 below 2^51, limb 0
below 2^51 + 2^26, congruent to 121665 times the operand; only F[rd] changes. -/
def Obligations.FmulA24MultipliesBy121665 : Prop :=
  ∀ (rd ra : FReg) (s : State), MulInBound (fieldOf s ra) →
    ∃ t, exec (.fmula24 rd ra) s = .next t ∧ limbList (fieldOf t rd) = mulA24ByLoop (fieldOf s ra) ∧
      (fieldOf t rd).l0 < 2 ^ 51 + 2 ^ 26 ∧ (fieldOf t rd).l1 < 2 ^ 51 ∧ (fieldOf t rd).l2 < 2 ^ 51 ∧
      (fieldOf t rd).l3 < 2 ^ 51 ∧ (fieldOf t rd).l4 < 2 ^ 51 ∧
      CongP (valOf t rd) (121665 * valOf s ra) ∧ OnlyFieldRegs [rd] s t

/-- R117: the five congruence laws, of the values the pseudocode computes from in-bound operands. -/
def Obligations.FieldCongruenceLaws : Prop :=
  ∀ (a b : Limbs) (n : Nat),
    (AddInBound a b → CongP (limbsVal (fieldAdd a b)) (limbsVal a + limbsVal b)) ∧
    (SubInBound a b → CongP (limbsVal (fieldSub a b)) (limbsVal a - limbsVal b)) ∧
    (MulInBound a → MulInBound b → CongP (limbsVal (fieldMul a b)) (limbsVal a * limbsVal b)) ∧
    (MulInBound a → CongP (limbsVal (fieldSqTimes n a)) (limbsVal a ^ 2 ^ n)) ∧
    (MulInBound a → CongP (limbsVal (fieldMulA24 a)) (121665 * limbsVal a))

/-- R118: at the bound 2^55 the accumulators and carried sums of FMUL stay below 2^117, its carries and the fold value
below 2^66; FMULA24's sums stay below 2^73. -/
def Obligations.DatapathWidthsSuffice : Prop :=
  ∀ a b : Limbs, MulInBound a → MulInBound b →
    LimbsBelow (2 ^ 117) (mulColumns a b) ∧ LimbsBelow (2 ^ 117) (carrySums (mulColumns a b)) ∧
    (∀ k, k < 5 → carry51 (limbAt (carrySums (mulColumns a b)) k) < 2 ^ 66) ∧
    low51 (carrySums (mulColumns a b)).l0 + 19 * carry51 (carrySums (mulColumns a b)).l4 < 2 ^ 66 ∧
    LimbsBelow (2 ^ 73) (carrySums ⟨a.l0 * 121665, a.l1 * 121665, a.l2 * 121665, a.l3 * 121665, a.l4 * 121665⟩)

/-- R111, R247: FADD, FSUB, FMUL, FSQR, FMULA24 and FINV with an operand out of bound complete; F[rd] receives one
fresh draw, whatever its value, and nothing else changes. The opaque constant the draw comes from and the counter that
numbers it are the model's form of the free value (log 1, DESIGN CHOICE). -/
def Obligations.OutOfBoundWritesOneDraw : Prop :=
  ∀ (rd ra rb : FReg) (count : BitVec 12) (i : Instr) (s : State),
    ((i = .fadd rd ra rb ∧ ¬ AddInBound (fieldOf s ra) (fieldOf s rb)) ∨
     (i = .fsub rd ra rb ∧ ¬ SubInBound (fieldOf s ra) (fieldOf s rb)) ∨
     (i = .fmul rd ra rb ∧ ¬ (MulInBound (fieldOf s ra) ∧ MulInBound (fieldOf s rb))) ∨
     (i = .fsqr rd ra count ∧ count ≠ 0 ∧ ¬ MulInBound (fieldOf s ra)) ∨
     (i = .fmula24 rd ra ∧ ¬ MulInBound (fieldOf s ra)) ∨
     (i = .finv rd ra ∧ ¬ MulInBound (fieldOf s ra))) →
    ∃ t, exec i s = .next t ∧ readF t rd = oobReg s.oobDraws ∧ OnlyFieldRegsDrawing 1 [rd] s t

/-- R111, R171, R222: LSTEP and SMUL outside their precondition complete; each of F0 to F3 receives a fresh draw of its
own, whatever its value, and nothing else changes. That SMUL's four results are draws, and the order of the four, is
read from R111 and R222 (log 13, DEDUCED); the opaque constant and the counter are the model's form of the free value
(log 1, DESIGN CHOICE). -/
def Obligations.OutOfBoundLadderDrawsF0ToF3 : Prop :=
  ∀ (i : Instr) (s : State),
    ((i = .lstep ∧ ¬ StepInBound (readPoints s) (fieldOf s 4)) ∨ (i = .smul ∧ ¬ PointInBound (fieldOf s 4))) →
    ∃ t, exec i s = .next t ∧ (∀ r : FReg, r.val < 4 → readF t r = oobReg (s.oobDraws + r.val)) ∧
      OnlyFieldRegsDrawing 4 [0, 1, 2, 3] s t

/-! ### Encode, decode, clamp, register file -/

/-- FLOAD (R140): limb k is bits 51k to 51k + 50 of POINT's integer, below 2^51; the value is POINT's integer without
bit 255; only F[rd] changes. -/
def Obligations.FloadExpandsPoint : Prop :=
  ∀ (rd : FReg) (s : State), ∃ t, exec (.fload rd) s = .next t ∧
    (∀ k, k < 5 → limbAt (fieldOf t rd) k = bufferVal s.point / 2 ^ (51 * k) % 2 ^ 51) ∧
    LimbsBelow (2 ^ 51) (fieldOf t rd) ∧ valOf t rd = bufferVal s.point % 2 ^ 255 ∧ OnlyFieldRegs [rd] s t

/-- FSTORE (R141): for every pattern in F[ra], RESULT is the canonical value in [0, p), its bytes little-endian and
bit 7 of byte 31 zero; nothing else changes. -/
def Obligations.FstoreWritesCanonicalValue : Prop :=
  ∀ (ra : FReg) (s : State), ∃ t, exec (.fstore ra) s = .next t ∧
    bufferVal t.result = valOf s ra % fieldPrime ∧
    (∀ j : Fin 32, (bufferByte t.result j).toNat = valOf s ra % fieldPrime / 2 ^ (8 * j.val) % 2 ^ 8) ∧
    (bufferByte t.result 31).getLsbD 7 = false ∧ t = { s with result := t.result }

/-- R142: the source's carry passes give the value R141 defines, for every pattern of 64-bit limbs. -/
def Obligations.ContractPassesEqualRemainder : Prop :=
  ∀ a : Limbs, LimbsBelow (2 ^ 64) a → contractByPasses a = limbsVal a % fieldPrime

/-- KLOAD (R143): bits 0 to 2 and 255 of K are 0, bit 254 is 1, every other bit is SECRET's; nothing else changes. -/
def Obligations.KloadClampsSecret : Prop :=
  ∀ s : State, ∃ t, exec .kload s = .next t ∧
    (∀ j, j < 256 → t.k.getLsbD j =
      if j < 3 ∨ j = 255 then false else if j = 254 then true else (bufferVal s.secret).testBit j) ∧
    t = { s with k := t.k }

/-- R144: after KLOAD K mod 8 is 0, bit 255 is 0, bit 254 is 1 and K lies in 2^254 to 2^255 − 8; clamping a clamped
value changes nothing. -/
def Obligations.ClampProperties : Prop :=
  (∀ s t : State, exec .kload s = .next t → t.k.toNat % 8 = 0 ∧ t.k.getLsbD 255 = false ∧ t.k.getLsbD 254 = true ∧
    2 ^ 254 ≤ t.k.toNat ∧ t.k.toNat ≤ 2 ^ 255 - 8) ∧
  ∀ n : BitVec 256, clampScalar (clampScalar n) = clampScalar n

/-- FMOV (R145) copies all five limbs, FSETI (R146) writes [imm, 0, 0, 0, 0]; only F[rd] changes, and FMOV of a
register to itself changes no state. -/
def Obligations.FmovAndFsetiWriteDestination : Prop :=
  ∀ (rd ra : FReg) (imm : BitVec 12) (s : State),
    (∃ t, exec (.fmov rd ra) s = .next t ∧ readF t rd = readF s ra ∧ OnlyFieldRegs [rd] s t) ∧
    exec (.fmov ra ra) s = .next s ∧
    (∃ t, exec (.fseti rd imm) s = .next t ∧ fieldOf t rd = ⟨imm.toNat, 0, 0, 0, 0⟩ ∧ valOf t rd = imm.toNat ∧
      OnlyFieldRegs [rd] s t)

/-- WIPE (R147): every limb of F0 to F15 and K are zero; nothing else changes. -/
def Obligations.WipeClearsFieldAndScalar : Prop :=
  ∀ s : State, ∃ t, exec .wipe s = .next t ∧ (∀ r, fieldOf t r = ⟨0, 0, 0, 0, 0⟩) ∧ t.k = 0 ∧
    t = { s with f := t.f, k := t.k }

/-! ### Ladder -/

/-- CSWAP (R170) with even ra and rb: bit 0 changes nothing, bit 1 exchanges the two points exactly, ra = rb changes
nothing whatever the bit; only the four registers named change. -/
def Obligations.CswapExchangesPoints : Prop :=
  ∀ (ra rb : FReg) (bit : BitVec 8) (s : State), ra.val % 2 = 0 → rb.val % 2 = 0 →
    ∃ t, exec (.cswap ra rb bit) s = .next t ∧
      (s.k.getLsbD bit.toNat = false → t = s) ∧ (ra = rb → t = s) ∧
      (s.k.getLsbD bit.toNat = true → readF t ra = readF s rb ∧ readF t rb = readF s ra ∧
        readF t (ra + 1) = readF s (rb + 1) ∧ readF t (rb + 1) = readF s (ra + 1)) ∧
      OnlyFieldRegs [ra, ra + 1, rb, rb + 1] s t

/-- LSTEP (R111, R171, R172) in bound: F0 to F3 hold exactly the limbs of x2, z2, x3 and z3, each line of R171's
pseudocode being the result of the field operation it names; the four formulas mod p; every output limb at most 2^51,
so that LSTEP's precondition holds again; F4 to F15 and all else unchanged. -/
def Obligations.LstepComputesLadderFormulas : Prop :=
  ∀ s : State, StepInBound (readPoints s) (fieldOf s 4) →
    ∃ t, exec .lstep s = .next t ∧
      (let A := fieldAdd (fieldOf s 0) (fieldOf s 1)
       let B := fieldSub (fieldOf s 0) (fieldOf s 1)
       let DA := fieldMul (fieldAdd (fieldOf s 2) (fieldOf s 3)) B
       let CB := fieldMul A (fieldSub (fieldOf s 2) (fieldOf s 3))
       let AA := fieldMul A A
       let BB := fieldMul B B
       let E := fieldSub AA BB
       let S := fieldAdd DA CB
       let T := fieldSub DA CB
       fieldOf t 0 = fieldMul AA BB ∧ fieldOf t 1 = fieldMul E (fieldAdd (fieldMulA24 E) AA) ∧
       fieldOf t 2 = fieldMul S S ∧ fieldOf t 3 = fieldMul (fieldMul T T) (fieldOf s 4)) ∧
      (let v := intStep (valOf s 4) ⟨valOf s 0, valOf s 1, valOf s 2, valOf s 3⟩
       CongP (valOf t 0) v.x ∧ CongP (valOf t 1) v.z ∧ CongP (valOf t 2) v.x' ∧ CongP (valOf t 3) v.z') ∧
      (∀ r : FReg, r.val < 4 → ∀ k, k < 5 → limbAt (fieldOf t r) k ≤ 2 ^ 51) ∧
      StepInBound (readPoints t) (fieldOf t 4) ∧ OnlyFieldRegs [0, 1, 2, 3] s t

/-- SMUL (R173, R175, R176) in bound: F0 to F3 are congruent to the 256-iteration ladder over the integers mod p on
the scalar K and the base F4, with every limb at most 2^51; F4 to F15, K and all else unchanged. -/
def Obligations.SmulRunsTheLadder : Prop :=
  ∀ s : State, PointInBound (fieldOf s 4) →
    ∃ t, exec .smul s = .next t ∧
      (let v := intScalarMul s.k (valOf s 4)
       CongP (valOf t 0) v.x ∧ CongP (valOf t 1) v.z ∧ CongP (valOf t 2) v.x' ∧ CongP (valOf t 3) v.z') ∧
      (∀ r : FReg, r.val < 4 → ∀ k, k < 5 → limbAt (fieldOf t r) k ≤ 2 ^ 51) ∧ OnlyFieldRegs [0, 1, 2, 3] s t

/-- R173's equivalent micro-op sequence: fseti f0, 1; fseti f1, 0; fmov f2, f4; fseti f3, 1; then cswap f0, f2, i;
lstep; cswap f0, f2, i for i from 255 down to 0, 772 micro-ops, end in the very state SMUL ends in. -/
def Obligations.SmulEqualsItsMicroOpSequence : Prop :=
  ∀ s : State, PointInBound (fieldOf s 4) →
    exec .smul s = runInstrs ([.fseti 0 1, .fseti 1 0, .fmov 2 4, .fseti 3 1] ++
      (List.range 256).reverse.flatMap fun i =>
        [.cswap 0 2 (BitVec.ofNat 8 i), .lstep, .cswap 0 2 (BitVec.ofNat 8 i)]) s

/-! ### Inversion -/

/-- FINV (R200, R201) on an in-bound operand: congruent to the operand to the power p − 2; congruent to 0 exactly for
an operand congruent to 0, and for any other the product with the operand is congruent to 1; every limb at most 2^51;
only F[rd] changes, rd = ra included. -/
def Obligations.FinvRaisesToPMinusTwo : Prop :=
  ∀ (rd ra : FReg) (s : State), MulInBound (fieldOf s ra) →
    ∃ t, exec (.finv rd ra) s = .next t ∧ CongP (valOf t rd) ((valOf s ra : Int) ^ (fieldPrime - 2)) ∧
      (valOf t rd % fieldPrime = 0 ↔ valOf s ra % fieldPrime = 0) ∧
      (valOf s ra % fieldPrime ≠ 0 → valOf t rd * valOf s ra % fieldPrime = 1) ∧
      (∀ k, k < 5 → limbAt (fieldOf t rd) k ≤ 2 ^ 51) ∧ OnlyFieldRegs [rd] s t

/-- R203's 22 micro-ops leave in F5 the same limbs as finv f5, f1, and all but F5 to F9 as they were. -/
def Obligations.FinvEqualsItsMicroOpSequence : Prop :=
  ∀ s : State, MulInBound (fieldOf s 1) →
    ∃ t u, exec (.finv 5 1) s = .next t ∧
      runInstrs [.fsqr 6 1 1, .fsqr 7 6 2, .fmul 8 7 1, .fmul 6 8 6, .fsqr 7 6 1, .fmul 8 7 8, .fsqr 7 8 5,
        .fmul 8 7 8, .fsqr 7 8 10, .fmul 9 7 8, .fsqr 7 9 20, .fmul 7 7 9, .fsqr 7 7 10, .fmul 8 7 8, .fsqr 7 8 50,
        .fmul 9 7 8, .fsqr 7 9 100, .fmul 7 7 9, .fsqr 7 7 50, .fmul 7 7 8, .fsqr 7 7 5, .fmul 5 7 6] s = .next u ∧
      readF u 5 = readF t 5 ∧ OnlyFieldRegs [5, 6, 7, 8, 9] s u

/-! ### Commands -/

/-- DERIVE (R220, R221, R224): for every SECRET and POINT it completes without error; RESULT is
derive(SECRET, POINT), F and K are zero, no OOB value is drawn (R121; the count of draws is the model's, log 1), and
all else is unchanged. -/
def Obligations.DeriveWritesResultAndWipes : Prop :=
  ∀ s : State, ∃ t, exec .derive s = .next t ∧ bufferVal t.result = deriveValue s.secret s.point ∧
    (∀ r, fieldOf t r = ⟨0, 0, 0, 0, 0⟩) ∧ t.k = 0 ∧ t.busy = false ∧ t.done = true ∧ t.err = false ∧ t.errcode = 0 ∧
    t = { s with f := t.f, k := t.k, result := t.result, busy := t.busy, done := t.done, err := t.err,
                 errcode := t.errcode }

/-- derive computes, mod p, X · Z^(p−2) of the 256-step ladder over the integers on the clamped secret and the point
without bit 255 (R172, R173, R200, R221). -/
def Obligations.DeriveIsTheLadderModP : Prop :=
  ∀ secret point : Buffer, (deriveValue secret point : Int) = intDerive secret point

/-- R221 (c) and (e), on the command: two states whose SECRETs clamp alike and whose POINTs agree below bit 255 get
the same RESULT, whatever else they hold. -/
def Obligations.DeriveIgnoresMaskedBits : Prop :=
  ∀ s t s' t' : State,
    clampScalar (BitVec.ofNat 256 (bufferVal s.secret)) = clampScalar (BitVec.ofNat 256 (bufferVal t.secret)) →
    bufferVal s.point % 2 ^ 255 = bufferVal t.point % 2 ^ 255 →
    exec .derive s = .next s' → exec .derive t = .next t' → s'.result = t'.result

/-- R226, R173: a POINT whose expansion is congruent to 0 gives 32 zero bytes for every SECRET, and the command
completes without error. -/
def Obligations.DeriveOfZeroPointIsZero : Prop :=
  ∀ s : State, bufferVal s.point % 2 ^ 255 % fieldPrime = 0 →
    ∃ t, exec .derive s = .next t ∧ (∀ j : Fin 32, bufferByte t.result j = 0) ∧ t.err = false ∧ t.done = true

/-- R222: the ROM words run one by one through EXEC_UOP leave the RESULT, F and K that DERIVE leaves. Each word is
placed by placeWord, which stands for the host's UOP and CMD writes and leaves no input before the engine's turn: the
model's form (logs 2 and 9, DESIGN CHOICE). -/
def Obligations.RomByExecUopEqualsDerive : Prop :=
  ∀ s : State, ∃ t u, exec .derive s = .next t ∧
    deriveRom.foldl (fun o w => andThen o fun v => step (placeWord w v)) (.next s) = .next u ∧
    u.result = t.result ∧ u.f = t.f ∧ u.k = t.k

/-- EXEC_UOP (R222, R224) of a latched word that decodes: the micro-op's own effect, then completion without error. -/
def Obligations.ExecUopRunsLatchedMicroOp : Prop :=
  ∀ (s : State) (i : Instr), decodeUop s.latchUop = .ok i →
    ∃ u, exec i s = .next u ∧
      exec .execUop s = .next { u with busy := false, done := true, err := false, errcode := 0 }

/-- R240, R241, R242: a command that ends in CmdError changes only STATUS: BUSY 0, DONE 1, ERR 1 and ERRCODE the code
of R241, for a bad command word and for a bad micro-op word. That the head of the inputs gives the engine its turn is
the model's form (log 2). -/
def Obligations.CmdErrorChangesOnlyStatus : Prop :=
  ∀ (s : State) (c : CmdError) (rest : List Input), s.busy = true → s.inReset = false → s.inputs = .engine :: rest →
    (decodeCmd s.latchCmd = .error c ∨ (decodeCmd s.latchCmd = .ok .execUop ∧ decodeUop s.latchUop = .error c)) →
    step s = .next { s with
      inputs := rest, busy := false, done := true, err := true,
      errcode := match c with | .badCmd => 1 | .badOpcode => 2 | .badField => 3 | .badOperand => 4 }

/-- R243: one command reports one error, the first in the order BAD_CMD, BAD_OPCODE, BAD_FIELD, BAD_OPERAND; a bad CMD
word is BAD_CMD whatever UOP holds. The three examples of the rule stand at the end. -/
def Obligations.ErrorPriorityOnCompletion : Prop :=
  (∀ s : State, s.latchCmd.toNat ≠ 1 → s.latchCmd.toNat ≠ 2 →
    completeCommand exec s = .next (takeCmdError .badCmd s)) ∧
  (∀ s : State, s.latchCmd = 2 →
    completeCommand exec s =
      (let w := s.latchUop
       let opc := w.toNat / 2 ^ 24
       if opc = 0 ∨ 16 ≤ opc then .next (takeCmdError .badOpcode s)
       else if w &&& reservedZeroMask opc ≠ 0 then .next (takeCmdError .badField s)
       else if (opc = 4 ∧ w.toNat % 2 ^ 12 = 0) ∨ (opc = 8 ∧ (w.getLsbD 16 = true ∨ w.getLsbD 12 = true)) then
         .next (takeCmdError .badOperand s)
       else exec .execUop s)) ∧
  (∀ s : State, s.latchCmd = 2 → s.latchUop = 0x04111000 →
    ∃ t, completeCommand exec s = .next t ∧ t.errcode = 3) ∧
  (∀ s : State, s.latchCmd = 2 → s.latchUop = 0x00FFFFFF →
    ∃ t, completeCommand exec s = .next t ∧ t.errcode = 2) ∧
  ∀ s : State, s.latchCmd = 0x00000012 → ∃ t, completeCommand exec s = .next t ∧ t.errcode = 1

/-! ### The step -/

/-- On the engine's turn while BUSY a step runs the latched command: exec of the decoded command, and for EXEC_UOP
exec of the micro-op the latched word decodes to, then completion (R222, R224). The turn comes from the head of the
inputs or from their being empty (log 2). -/
def Obligations.StepRunsDecodedInstruction : Prop :=
  ∀ (s : State) (rest : List Input), s.busy = true → s.inReset = false →
    (s.inputs = .engine :: rest ∨ (s.inputs = [] ∧ rest = [])) →
    (∀ i, decodeCmd s.latchCmd = .ok i → step s = exec i { s with inputs := rest }) ∧
    (∀ i, decodeCmd s.latchCmd = .ok .execUop → decodeUop s.latchUop = .ok i →
      ∃ u, exec i { s with inputs := rest } = .next u ∧
        step s = .next { u with busy := false, done := true, err := false, errcode := 0 })

/-- The word that withFetchWord places is what the next step runs, for every word the decoder reads (log 9): a
command by exec, a micro-op by exec and completion. -/
def Obligations.PlacedWordIsRunNext : Prop :=
  ∀ (s : State) (nbits w : Nat) (i : Instr), decodeTableWord nbits w = some i →
    let p := s.withFetchWord nbits w
    (isUop i = false → step p = exec i p) ∧
    (isUop i = true → ∃ u, exec i p = .next u ∧
      step p = .next { u with busy := false, done := true, err := false, errcode := 0 })

/-- R223: a host write of any value to CMD while IDLE clears DONE, ERR and ERRCODE, keeps OVR, latches the value and
UOP and sets BUSY, and nothing else of the block changes; irq falls. The list of inputs and the recorded answer are
the model's (logs 2, 3 and 17). -/
def Obligations.CmdWriteStartsCommand : Prop :=
  ∀ (s : State) (v : Word) (rest : List Input), s.busy = false → s.inReset = false →
    s.inputs = memWrite 0x04 v :: rest →
    ∃ t, step s = .next t ∧ irq t = false ∧
      t = { s with done := false, err := false, errcode := 0, latchCmd := v, latchUop := s.uop, busy := true,
                   inputs := rest, response := .written }

/-- R224, R61: the engine's turn completes the command, whatever the latch holds: BUSY is 0 and DONE is 1 after it,
ERR is 1 exactly when ERRCODE is not 0, and UOP, IRQ_EN, OVR, SECRET, POINT and the latch are unchanged. That the
head of the inputs gives the turn, and that the latch stays, are the model's (logs 2 and 11). -/
def Obligations.EngineTurnCompletesCommand : Prop :=
  ∀ (s : State) (rest : List Input), s.busy = true → s.inReset = false → s.inputs = .engine :: rest →
    ∃ t, step s = .next t ∧ t.busy = false ∧ t.done = true ∧ (t.err = true ↔ t.errcode ≠ 0) ∧
      t.uop = s.uop ∧ t.doneIe = s.doneIe ∧ t.ovr = s.ovr ∧ t.secret = s.secret ∧ t.point = s.point ∧
      t.latchCmd = s.latchCmd ∧ t.latchUop = s.latchUop ∧ t.inputs = rest ∧ t.response = s.response

/-- R227, R220: from any idle state out of reset, the host's sixteen buffer writes, its CMD write and the engine's turn
end with STATUS showing DONE without error, RESULT the derive of the two buffers written, and F and K wiped. The
engine's turn as an input is the model's form (log 2). -/
def Obligations.HostDriverSequenceDerives : Prop :=
  ∀ (s : State) (secret point : Buffer) (rest : List Input), s.busy = false → s.inReset = false →
    s.inputs = deriveInputs secret point ++ rest →
    ∃ t, core.run 18 s = .next t ∧ bufferVal t.result = deriveValue secret point ∧ t.secret = secret ∧
      t.point = point ∧ t.busy = false ∧ t.done = true ∧ t.err = false ∧ t.errcode = 0 ∧ t.inputs = rest ∧
      (∀ r, fieldOf t r = ⟨0, 0, 0, 0, 0⟩) ∧ t.k = 0

/-! ### Host window -/

/-- R25: while BUSY, an accepted write to CMD, UOP, a SECRETw or a POINTw is dropped and sets OVR; writes to STATUS
and IRQ_EN take effect at any time; writes to ID, RESULTw and reserved offsets are ignored at any time and set
nothing. The list of inputs and the recorded answer, written in every case, are the model's (logs 2 and 3, DESIGN
CHOICE; log 17, DEDUCED). -/
def Obligations.WriteWhileBusyFilter : Prop :=
  ∀ (s : State) (off : Fin 128) (v : Word) (rest : List Input), s.inReset = false → off.val % 4 = 0 →
    s.inputs = memWrite off v :: rest →
    let u := { s with inputs := rest, response := .written }
    (s.busy = true → (off.val = 0x04 ∨ off.val = 0x0C ∨ (0x20 ≤ off.val ∧ off.val < 0x60)) →
      step s = .next { u with ovr := true }) ∧
    (off.val = 0x08 → step s = .next { u with done := s.done && !v.getLsbD 1, ovr := s.ovr && !v.getLsbD 3 }) ∧
    (off.val = 0x10 → step s = .next { u with doneIe := v.getLsbD 0 }) ∧
    (off.val = 0x00 ∨ (0x14 ≤ off.val ∧ off.val < 0x20) ∨ 0x60 ≤ off.val → step s = .next u)

/-- R28, R30, R31 while IDLE: an accepted write to UOP, SECRETw or POINTw replaces that one word; nothing else of the
block changes. The list of inputs and the recorded answer are the model's (logs 2, 3 and 17). -/
def Obligations.IdleWritesReachRegisters : Prop :=
  ∀ (s : State) (w : Fin 8) (v : Word) (rest : List Input) (off : Fin 128), s.busy = false → s.inReset = false →
    s.inputs = memWrite off v :: rest →
    let u := { s with inputs := rest, response := .written }
    (off.val = 0x0C → step s = .next { u with uop := v }) ∧
    (off.val = 0x20 + 4 * w.val → ∃ b : Buffer, step s = .next { u with secret := b } ∧ b[w.val] = v ∧
      ∀ x : Fin 8, x ≠ w → b[x.val] = s.secret[x.val]) ∧
    (off.val = 0x40 + 4 * w.val → ∃ b : Buffer, step s = .next { u with point := b } ∧ b[w.val] = v ∧
      ∀ x : Fin 8, x ≠ w → b[x.val] = s.point[x.val])

/-- R24, R26 to R32, R55, R56: what an accepted read of each offset answers, and that a read changes nothing of the
block. ID is 0x00025519; CMD, SECRETw and the reserved offsets read 0; RESULTw reads 0 while BUSY; STATUS shows its
fields at R27's bits. The list of inputs and the answer recorded in the state are the model's form (logs 2 and 3). -/
def Obligations.ReadsAnswerAndChangeNothing : Prop :=
  ∀ (s : State) (off : Fin 128) (w : Fin 8) (rest : List Input), s.inReset = false → off.val % 4 = 0 →
    s.inputs = memRead off :: rest →
    ∃ v : Word, step s = .next { s with inputs := rest, response := .data v } ∧
      (off.val = 0x00 → v = 0x00025519) ∧
      (off.val = 0x08 → v.toNat = s.busy.toNat + 2 * s.done.toNat + 4 * s.err.toNat + 8 * s.ovr.toNat +
        16 * s.errcode.toNat) ∧
      (off.val = 0x0C → v = s.uop) ∧ (off.val = 0x10 → v.toNat = s.doneIe.toNat) ∧
      (off.val = 0x04 ∨ (0x14 ≤ off.val ∧ off.val < 0x40) → v = 0) ∧
      (off.val = 0x40 + 4 * w.val → v = s.point[w.val]) ∧
      (off.val = 0x60 + 4 * w.val → v = if s.busy = true then 0 else s.result[w.val])

/-- R51, R52, R246: an access to the window that is misaligned, not 32 bits wide or without all four strobes, read or
write, changes nothing of the block, gives no data and is answered by a bus error. That the run goes on with the
answer recorded, and the list of inputs, are the model's form (logs 2 and 3). -/
def Obligations.RefusedAccessChangesNothing : Prop :=
  ∀ (s : State) (off : Fin 128) (a : HostAccess) (rest : List Input), s.inReset = false →
    s.inputs = .host a :: rest → a.target = .window off →
    (off.val % 4 ≠ 0 ∨ a.width ≠ 32 ∨ a.strobes ≠ 0xF) →
    step s = .next { s with inputs := rest, response := .busError }

/-- R54, under the byte order of R53: byte 4w + b of a buffer is bits [8b+7:8b] of word w; the buffer's integer is the
sum of its bytes with weights 2^(8j) and of its words with weights 2^(32w); its bit 255 is bit 31 of word 7 and its
bits 0 to 2 are those of word 0. -/
def Obligations.BufferBytesAreLittleEndian : Prop :=
  ∀ b : Buffer,
    (∀ (w : Fin 8) (i : Fin 4) (j : Fin 32), j.val = 4 * w.val + i.val →
      bufferByte b j = b[w.val].extractLsb' (8 * i.val) 8) ∧
    bufferVal b = ∑ j : Fin 32, (bufferByte b j).toNat * 2 ^ (8 * j.val) ∧
    bufferVal b = ∑ w : Fin 8, b[w.val].toNat * 2 ^ (32 * w.val) ∧
    (bufferVal b).testBit 255 = b[7].getLsbD 31 ∧ ∀ j, j < 3 → (bufferVal b).testBit j = b[0].getLsbD j

/-- R36, R248: irq is DONE and DONE_IE and 0 at reset; it falls by writing 1 to STATUS bit 1 and by DONE_IE = 0, rises
at once when DONE_IE is set while DONE is 1, and with DONE_IE set rises in the step in which BUSY falls. The list of
inputs, whose head gives the engine its turn in the last clause, is the model's form (log 2, DESIGN CHOICE). -/
def Obligations.InterruptIsDoneAndEnabled : Prop :=
  (∀ s : State, irq s = (s.done && s.doneIe)) ∧ irq State.reset = false ∧
  (∀ (s : State) (v : Word) (rest : List Input), s.inReset = false → s.inputs = memWrite 0x08 v :: rest →
    v.getLsbD 1 = true → ∃ t, step s = .next t ∧ irq t = false) ∧
  (∀ (s : State) (v : Word) (rest : List Input), s.inReset = false → s.inputs = memWrite 0x10 v :: rest →
    ∃ t, step s = .next t ∧ irq t = (s.done && v.getLsbD 0)) ∧
  ∀ (s : State) (rest : List Input), s.busy = true → s.inReset = false → s.doneIe = true →
    s.inputs = .engine :: rest → ∃ t, step s = .next t ∧ t.busy = false ∧ irq t = true

/-! ### Reset -/

/-- R270: asserting reset in any state, a running command included and whatever comes after, leaves every register of
the block 0 and the engine IDLE with irq 0; while it is asserted the engine's turn changes nothing; release changes
nothing but the line, so that after it the registers are those of State.reset. Reset as two inputs, what it keeps of
the surroundings, and the list of inputs with the engine's turn are the model's (log 6; logs 2 and 16). -/
def Obligations.ResetClearsEveryRegister : Prop :=
  (∀ (s : State) (rest : List Input), s.inputs = .resetAssert :: rest →
    ∃ t, step s = .next t ∧ t.inReset = true ∧ irq t = false ∧ (∀ r, fieldOf t r = ⟨0, 0, 0, 0, 0⟩) ∧ t.k = 0 ∧
      bufferVal t.secret = 0 ∧ bufferVal t.point = 0 ∧ bufferVal t.result = 0 ∧ t.uop = 0 ∧ t.doneIe = false ∧
      t.busy = false ∧ t.done = false ∧ t.err = false ∧ t.ovr = false ∧ t.errcode = 0 ∧ t.latchCmd = 0 ∧
      t.latchUop = 0 ∧
      t = { State.reset with inReset := true, inputs := rest, response := s.response, oobDraws := s.oobDraws }) ∧
  (∀ (s : State) (rest : List Input), s.inReset = true →
    (s.inputs = .engine :: rest ∨ (s.inputs = [] ∧ rest = [])) → step s = .next { s with inputs := rest }) ∧
  (∀ (s : State) (rest : List Input), s.inputs = .resetRelease :: rest →
    step s = .next { s with inReset := false, inputs := rest }) ∧
  ∀ (s : State) (rest : List Input), s.inputs = .resetAssert :: .engine :: .resetRelease :: rest →
    core.run 3 s =
      .next { State.reset with inputs := rest, response := s.response, oobDraws := s.oobDraws }

/-- R270: the state right after reset holds 0 in every register of the block, IDLE, irq 0. -/
def Obligations.StateResetIsAllZero : Prop :=
  (∀ r, fieldOf State.reset r = ⟨0, 0, 0, 0, 0⟩) ∧ State.reset.k = 0 ∧ bufferVal State.reset.secret = 0 ∧
    bufferVal State.reset.point = 0 ∧ bufferVal State.reset.result = 0 ∧ State.reset.uop = 0 ∧
    statusWord State.reset = 0 ∧ irqEnWord State.reset = 0 ∧ State.reset.latchCmd = 0 ∧ State.reset.latchUop = 0 ∧
    irq State.reset = false ∧ readWindow .id State.reset = 0x00025519

/-! ### Whole-machine rules -/

/-- Every step keeps the invariant: STATUS is a legal state of R27 with an ERRCODE of R241, K is 0 or clamped (R22,
R144), RESULT is canonical (R32, R141), and while reset is asserted the block is at its reset values (R270). -/
def Obligations.StepKeepsInvariant : Prop := ∀ s t : State, Inv s → step s = .next t → Inv t

/-- The invariant holds at reset (R270). -/
def Obligations.ResetMeetsInvariant : Prop := Inv State.reset

/-- Constant time as far as the interface shows it (R275): two states that agree on control and differ in any SECRET,
POINT, RESULT, F and K step alike: both answer, with the same control and the same irq, or both are refused. Control
takes in the model's list of inputs and reset line (logs 2 and 6). -/
def Obligations.ControlIsIndependentOfData : Prop :=
  ∀ s t : State, SameControl s t →
    (∃ s' t', step s = .next s' ∧ step t = .next t' ∧ SameControl s' t' ∧ irq s' = irq t') ∨
    (step s = .refused .accessDuringReset ∧ step t = .refused .accessDuringReset)

/-- R20, R22, R30: what the host reads does not depend on SECRET, F or K: two states that differ only there get the
same answers to every access. The list of inputs and the recorded answer are the model's form (logs 2 and 3). -/
def Obligations.HostReadsHideSecretFieldAndScalar : Prop :=
  ∀ (s t s' t' : State) (a : HostAccess) (rest : List Input), s.inputs = .host a :: rest →
    t = { s with f := t.f, k := t.k, secret := t.secret } → step s = .next s' → step t = .next t' →
    s'.response = t'.response ∧ t' = { s' with f := t'.f, k := t'.k, secret := t'.secret }

/-- Every instruction completes in every state (R110, R240, §7 of the source): exec answers a next state, and it never
touches SECRET, POINT, UOP, IRQ_EN or OVR (R22, R30, R31). The model's own clauses: that the terms without an encoding,
FSQR with count 0 and CSWAP with an odd register, complete too (log 10, DEDUCED); that the latch is kept (log 11,
DEDUCED); that the reset line, the inputs and the host's answer stay (logs 6, 2 and 3, DESIGN CHOICE). -/
def Obligations.EveryInstructionCompletes : Prop :=
  ∀ (i : Instr) (s : State), ∃ t, exec i s = .next t ∧ t.secret = s.secret ∧ t.point = s.point ∧ t.uop = s.uop ∧
    t.doneIe = s.doneIe ∧ t.ovr = s.ovr ∧ t.latchCmd = s.latchCmd ∧ t.latchUop = s.latchUop ∧
    t.inReset = s.inReset ∧ t.inputs = s.inputs ∧ t.response = s.response

/-- R22, R32, R35, R110, and R147, R170, R171, R173 for the registers each form names: a well-formed micro-op leaves
SECRET, POINT, UOP, IRQ_EN, all of STATUS, the latch and the surroundings' part as they are; only KLOAD and WIPE change
K, only FSTORE changes RESULT, and each changes only the field registers its form names. The count of draws, which may
rise, is the model's (log 1). -/
def Obligations.MicroOpsWriteOnlyTheirTargets : Prop :=
  ∀ (i : Instr) (s t : State), isUop i = true → i.wellFormed = true → exec i s = .next t →
    t = { s with f := t.f, k := t.k, result := t.result, oobDraws := t.oobDraws } ∧
    (i ≠ .kload → i ≠ .wipe → t.k = s.k) ∧ ((∀ ra, i ≠ .fstore ra) → t.result = s.result) ∧
    t.busy = s.busy ∧ t.done = s.done ∧ t.err = s.err ∧ t.ovr = s.ovr ∧ t.errcode = s.errcode ∧
    ∀ r, r ∉ destRegs i → readF t r = readF s r

/-- R59 (b), R225: a step that changes F, K or RESULT is the engine's completion of a running command or a reset; in
particular no host access changes them. That the head of the inputs, or their being empty, gives the engine its turn
(log 2), and that reset is an input (log 6), are the model's form (DESIGN CHOICE). -/
def Obligations.OnlyCompletionChangesEngineState : Prop :=
  ∀ s t : State, step s = .next t → (t.f ≠ s.f ∨ t.k ≠ s.k ∨ t.result ≠ s.result) →
    (s.busy = true ∧ s.inReset = false ∧ t.busy = false ∧ t.done = true ∧
      (s.inputs = [] ∨ s.inputs.head? = some .engine)) ∨ s.inputs.head? = some .resetAssert

/-- R27, R244, R245, R273 (g): DONE falls only by an accepted STATUS write with bit 1, a CMD write while IDLE or
reset; OVR only by an accepted STATUS write with bit 3 or reset; ERR, from an idle block, only by a CMD write or
reset. The list of inputs, with reset among them, is the model's form (logs 2 and 6). -/
def Obligations.StickyFlagsFallOnlyAsStated : Prop :=
  ∀ s t : State, step s = .next t →
    (s.done = true → t.done = false → s.inputs.head? = some .resetAssert ∨
      (∃ v, v.getLsbD 1 = true ∧ s.inputs.head? = some (memWrite 0x08 v)) ∨
      (s.busy = false ∧ ∃ v, s.inputs.head? = some (memWrite 0x04 v))) ∧
    (s.ovr = true → t.ovr = false → s.inputs.head? = some .resetAssert ∨
      ∃ v, v.getLsbD 3 = true ∧ s.inputs.head? = some (memWrite 0x08 v)) ∧
    (s.err = true → s.busy = false → t.err = false → s.inputs.head? = some .resetAssert ∨
      ∃ v, s.inputs.head? = some (memWrite 0x04 v))

/-- A step answers a next state always, but for a host access to the window while the reset input is asserted
(§5 of the source: execution is always total), and that access it refuses always (93 I6). The refusal and the reset
line are the model's form (logs 5 and 6), the list of inputs too (log 2). -/
def Obligations.StepStopsOnlyOnAccessInReset : Prop :=
  (∀ s : State, (∃ t, step s = .next t) ∨
    (step s = .refused .accessDuringReset ∧ s.inReset = true ∧
      ∃ a off rest, s.inputs = .host a :: rest ∧ a.target = .window off)) ∧
  ∀ (s : State) (a : HostAccess) (off : Fin 128) (rest : List Input), s.inputs = .host a :: rest →
    a.target = .window off → s.inReset = true → step s = .refused .accessDuringReset

/-- R50, R246, D47: a host access outside the window, of any width, strobes and kind, busy or idle, in reset or out of
it, changes nothing of the block; the platform addresses BASE to BASE + 0x7F and no others are the window. That the
answer is recorded as the platform's (log 4), the list of inputs (log 2) and BASE as an opaque constant (log 7) are the
model's form. -/
def Obligations.OutsideAccessChangesNothing : Prop :=
  (∀ (s : State) (a : HostAccess) (rest : List Input), s.inputs = .host a :: rest → a.target = .outside →
    step s = .next { s with inputs := rest, response := .platform }) ∧
  (∀ (addr : Nat) (off : Fin 128), targetOfAddress addr = .window off ↔ addr = Config.base + off.val) ∧
  ∀ addr : Nat, targetOfAddress addr = .outside ↔ (addr < Config.base ∨ Config.base + 0x80 ≤ addr)

/-- R51, R50: a burst, of reads or of writes, is its single 32-bit accesses in address order: the i-th one is at the
first address plus 4i, at that offset of the window where it is below 0x80 and outside the window above. That addresses
are natural numbers, counted from BASE as an opaque constant, and never wrap, so that this holds for every i, is no
rule of the spec but the model's choice (log 7, DESIGN CHOICE). -/
def Obligations.BurstIsItsSingleAccesses : Prop :=
  (∀ (addr : Nat) (ops : List HostOp) (i : Nat),
    (burstAtAddress addr ops)[i]? = ops[i]?.map fun op => .host ⟨targetOfAddress (addr + 4 * i), 32, 0xF, op⟩) ∧
  (∀ (n : Nat) (vs : List Word) (i : Nat),
    (burstWrites n vs)[i]? = vs[i]?.map fun v =>
      if h : n + 4 * i < 0x80 then memWrite ⟨n + 4 * i, h⟩ v else .host ⟨.outside, 32, 0xF, .write v⟩) ∧
  ∀ (n count i : Nat),
    (burstReads n count)[i]? = if i < count then
      some (if h : n + 4 * i < 0x80 then memRead ⟨n + 4 * i, h⟩ else .host ⟨.outside, 32, 0xF, .read⟩) else none
end

