-- ==== Sys2Proof/Laws/Decode.lean ====
section
/-! SUPPORT. The fields of an assembled micro-op word, and the word as a concatenation of its fields. -/

namespace Sys2Proof

/-- The number of an assembled word, for fields in range (R83). -/
theorem uopWord_toNat {opc imm : Nat} (rd ra rb : FReg) (ho : opc < 2 ^ 8) (hi : imm < 2 ^ 12) :
    (uopWord opc rd ra rb imm).toNat =
      opc * 2 ^ 24 + rd.val * 2 ^ 20 + ra.val * 2 ^ 16 + rb.val * 2 ^ 12 + imm := by
  have := rd.isLt; have := ra.isLt; have := rb.isLt
  rw [uopWord, BitVec.toNat_ofNat]
  exact Nat.mod_eq_of_lt (by omega)

theorem opcField_uopWord {opc imm : Nat} (rd ra rb : FReg) (ho : opc < 2 ^ 8) (hi : imm < 2 ^ 12) :
    opcField (uopWord opc rd ra rb imm) = opc := by
  have := rd.isLt; have := ra.isLt; have := rb.isLt
  simp only [opcField, bits, uopWord_toNat rd ra rb ho hi]
  omega

theorem rdField_uopWord {opc imm : Nat} (rd ra rb : FReg) (ho : opc < 2 ^ 8) (hi : imm < 2 ^ 12) :
    rdField (uopWord opc rd ra rb imm) = rd := by
  have := rd.isLt; have := ra.isLt; have := rb.isLt
  apply Fin.ext
  simp only [rdField, regField, bits, uopWord_toNat rd ra rb ho hi, Fin.val_ofNat]
  omega

theorem raField_uopWord {opc imm : Nat} (rd ra rb : FReg) (ho : opc < 2 ^ 8) (hi : imm < 2 ^ 12) :
    raField (uopWord opc rd ra rb imm) = ra := by
  have := rd.isLt; have := ra.isLt; have := rb.isLt
  apply Fin.ext
  simp only [raField, regField, bits, uopWord_toNat rd ra rb ho hi, Fin.val_ofNat]
  omega

theorem rbField_uopWord {opc imm : Nat} (rd ra rb : FReg) (ho : opc < 2 ^ 8) (hi : imm < 2 ^ 12) :
    rbField (uopWord opc rd ra rb imm) = rb := by
  have := rd.isLt; have := ra.isLt; have := rb.isLt
  apply Fin.ext
  simp only [rbField, regField, bits, uopWord_toNat rd ra rb ho hi, Fin.val_ofNat]
  omega

theorem immField_uopWord {opc imm : Nat} (rd ra rb : FReg) (ho : opc < 2 ^ 8) (hi : imm < 2 ^ 12) :
    immField (uopWord opc rd ra rb imm) = BitVec.ofNat 12 imm := by
  apply BitVec.eq_of_toNat_eq
  simp only [immField, bits, uopWord_toNat rd ra rb ho hi, BitVec.toNat_ofNat]
  omega

theorem bitIndexField_uopWord {opc imm : Nat} (rd ra rb : FReg) (ho : opc < 2 ^ 8) (hi : imm < 2 ^ 12) :
    bitIndexField (uopWord opc rd ra rb imm) = BitVec.ofNat 8 imm := by
  apply BitVec.eq_of_toNat_eq
  simp only [bitIndexField, bits, uopWord_toNat rd ra rb ho hi, BitVec.toNat_ofNat]
  omega

/-- A word is the concatenation of its fields (R83): the form in which masks are applied field by field. -/
theorem uopWord_eq_append {opc imm : Nat} (rd ra rb : FReg) (ho : opc < 2 ^ 8) (hi : imm < 2 ^ 12) :
    uopWord opc rd ra rb imm =
      BitVec.ofNat 8 opc ++ (BitVec.ofNat 4 rd.val ++ (BitVec.ofNat 4 ra.val ++ (BitVec.ofNat 4 rb.val ++
        BitVec.ofNat 12 imm))) := by
  have := rd.isLt; have := ra.isLt; have := rb.isLt
  apply BitVec.eq_of_toNat_eq
  have cat : ∀ {m n : Nat} (x : BitVec m) (y : BitVec n), (x ++ y).toNat = x.toNat * 2 ^ n + y.toNat := by
    intro m n x y
    rw [BitVec.toNat_append, ← Nat.shiftLeft_add_eq_or_of_lt y.isLt, Nat.shiftLeft_eq]
  simp only [uopWord_toNat rd ra rb ho hi, cat, BitVec.toNat_ofNat]
  omega

end Sys2Proof
end

