-- ==== Sys2Proof/Laws/State.lean ====
section
/-! SUPPORT. One lemma per field per shared update, so that no proof unfolds a record update. -/

namespace Sys2Proof.Machine

/-! ### writeF -/

@[simp] theorem writeF_f (s : State) (r : FReg) (v : FieldReg) : (writeF s r v).f = s.f.set r.val v := rfl
@[simp] theorem writeF_k (s : State) (r : FReg) (v : FieldReg) : (writeF s r v).k = s.k := rfl
@[simp] theorem writeF_secret (s : State) (r : FReg) (v : FieldReg) : (writeF s r v).secret = s.secret := rfl
@[simp] theorem writeF_point (s : State) (r : FReg) (v : FieldReg) : (writeF s r v).point = s.point := rfl
@[simp] theorem writeF_result (s : State) (r : FReg) (v : FieldReg) : (writeF s r v).result = s.result := rfl
@[simp] theorem writeF_uop (s : State) (r : FReg) (v : FieldReg) : (writeF s r v).uop = s.uop := rfl
@[simp] theorem writeF_doneIe (s : State) (r : FReg) (v : FieldReg) : (writeF s r v).doneIe = s.doneIe := rfl
@[simp] theorem writeF_busy (s : State) (r : FReg) (v : FieldReg) : (writeF s r v).busy = s.busy := rfl
@[simp] theorem writeF_done (s : State) (r : FReg) (v : FieldReg) : (writeF s r v).done = s.done := rfl
@[simp] theorem writeF_err (s : State) (r : FReg) (v : FieldReg) : (writeF s r v).err = s.err := rfl
@[simp] theorem writeF_ovr (s : State) (r : FReg) (v : FieldReg) : (writeF s r v).ovr = s.ovr := rfl
@[simp] theorem writeF_errcode (s : State) (r : FReg) (v : FieldReg) : (writeF s r v).errcode = s.errcode := rfl
@[simp] theorem writeF_latchCmd (s : State) (r : FReg) (v : FieldReg) : (writeF s r v).latchCmd = s.latchCmd := rfl
@[simp] theorem writeF_latchUop (s : State) (r : FReg) (v : FieldReg) : (writeF s r v).latchUop = s.latchUop := rfl
@[simp] theorem writeF_inReset (s : State) (r : FReg) (v : FieldReg) : (writeF s r v).inReset = s.inReset := rfl
@[simp] theorem writeF_inputs (s : State) (r : FReg) (v : FieldReg) : (writeF s r v).inputs = s.inputs := rfl
@[simp] theorem writeF_response (s : State) (r : FReg) (v : FieldReg) : (writeF s r v).response = s.response := rfl
@[simp] theorem writeF_oobDraws (s : State) (r : FReg) (v : FieldReg) : (writeF s r v).oobDraws = s.oobDraws := rfl

/-! ### writeOob -/

@[simp] theorem writeOob_f (s : State) (r : FReg) : (writeOob s r).f = s.f.set r.val (oobReg s.oobDraws) := rfl
@[simp] theorem writeOob_k (s : State) (r : FReg) : (writeOob s r).k = s.k := rfl
@[simp] theorem writeOob_secret (s : State) (r : FReg) : (writeOob s r).secret = s.secret := rfl
@[simp] theorem writeOob_point (s : State) (r : FReg) : (writeOob s r).point = s.point := rfl
@[simp] theorem writeOob_result (s : State) (r : FReg) : (writeOob s r).result = s.result := rfl
@[simp] theorem writeOob_uop (s : State) (r : FReg) : (writeOob s r).uop = s.uop := rfl
@[simp] theorem writeOob_doneIe (s : State) (r : FReg) : (writeOob s r).doneIe = s.doneIe := rfl
@[simp] theorem writeOob_busy (s : State) (r : FReg) : (writeOob s r).busy = s.busy := rfl
@[simp] theorem writeOob_done (s : State) (r : FReg) : (writeOob s r).done = s.done := rfl
@[simp] theorem writeOob_err (s : State) (r : FReg) : (writeOob s r).err = s.err := rfl
@[simp] theorem writeOob_ovr (s : State) (r : FReg) : (writeOob s r).ovr = s.ovr := rfl
@[simp] theorem writeOob_errcode (s : State) (r : FReg) : (writeOob s r).errcode = s.errcode := rfl
@[simp] theorem writeOob_latchCmd (s : State) (r : FReg) : (writeOob s r).latchCmd = s.latchCmd := rfl
@[simp] theorem writeOob_latchUop (s : State) (r : FReg) : (writeOob s r).latchUop = s.latchUop := rfl
@[simp] theorem writeOob_inReset (s : State) (r : FReg) : (writeOob s r).inReset = s.inReset := rfl
@[simp] theorem writeOob_inputs (s : State) (r : FReg) : (writeOob s r).inputs = s.inputs := rfl
@[simp] theorem writeOob_response (s : State) (r : FReg) : (writeOob s r).response = s.response := rfl
@[simp] theorem writeOob_oobDraws (s : State) (r : FReg) : (writeOob s r).oobDraws = s.oobDraws + 1 := rfl

/-! ### clearF -/

@[simp] theorem clearF_f (s : State) : (clearF s).f = Vector.replicate 16 zeroReg := rfl
@[simp] theorem clearF_k (s : State) : (clearF s).k = s.k := rfl
@[simp] theorem clearF_secret (s : State) : (clearF s).secret = s.secret := rfl
@[simp] theorem clearF_point (s : State) : (clearF s).point = s.point := rfl
@[simp] theorem clearF_result (s : State) : (clearF s).result = s.result := rfl
@[simp] theorem clearF_uop (s : State) : (clearF s).uop = s.uop := rfl
@[simp] theorem clearF_doneIe (s : State) : (clearF s).doneIe = s.doneIe := rfl
@[simp] theorem clearF_busy (s : State) : (clearF s).busy = s.busy := rfl
@[simp] theorem clearF_done (s : State) : (clearF s).done = s.done := rfl
@[simp] theorem clearF_err (s : State) : (clearF s).err = s.err := rfl
@[simp] theorem clearF_ovr (s : State) : (clearF s).ovr = s.ovr := rfl
@[simp] theorem clearF_errcode (s : State) : (clearF s).errcode = s.errcode := rfl
@[simp] theorem clearF_latchCmd (s : State) : (clearF s).latchCmd = s.latchCmd := rfl
@[simp] theorem clearF_latchUop (s : State) : (clearF s).latchUop = s.latchUop := rfl
@[simp] theorem clearF_inReset (s : State) : (clearF s).inReset = s.inReset := rfl
@[simp] theorem clearF_inputs (s : State) : (clearF s).inputs = s.inputs := rfl
@[simp] theorem clearF_response (s : State) : (clearF s).response = s.response := rfl
@[simp] theorem clearF_oobDraws (s : State) : (clearF s).oobDraws = s.oobDraws := rfl

/-! ### writeK -/

@[simp] theorem writeK_f (s : State) (v : BitVec 256) : (writeK s v).f = s.f := rfl
@[simp] theorem writeK_k (s : State) (v : BitVec 256) : (writeK s v).k = v := rfl
@[simp] theorem writeK_secret (s : State) (v : BitVec 256) : (writeK s v).secret = s.secret := rfl
@[simp] theorem writeK_point (s : State) (v : BitVec 256) : (writeK s v).point = s.point := rfl
@[simp] theorem writeK_result (s : State) (v : BitVec 256) : (writeK s v).result = s.result := rfl
@[simp] theorem writeK_uop (s : State) (v : BitVec 256) : (writeK s v).uop = s.uop := rfl
@[simp] theorem writeK_doneIe (s : State) (v : BitVec 256) : (writeK s v).doneIe = s.doneIe := rfl
@[simp] theorem writeK_busy (s : State) (v : BitVec 256) : (writeK s v).busy = s.busy := rfl
@[simp] theorem writeK_done (s : State) (v : BitVec 256) : (writeK s v).done = s.done := rfl
@[simp] theorem writeK_err (s : State) (v : BitVec 256) : (writeK s v).err = s.err := rfl
@[simp] theorem writeK_ovr (s : State) (v : BitVec 256) : (writeK s v).ovr = s.ovr := rfl
@[simp] theorem writeK_errcode (s : State) (v : BitVec 256) : (writeK s v).errcode = s.errcode := rfl
@[simp] theorem writeK_latchCmd (s : State) (v : BitVec 256) : (writeK s v).latchCmd = s.latchCmd := rfl
@[simp] theorem writeK_latchUop (s : State) (v : BitVec 256) : (writeK s v).latchUop = s.latchUop := rfl
@[simp] theorem writeK_inReset (s : State) (v : BitVec 256) : (writeK s v).inReset = s.inReset := rfl
@[simp] theorem writeK_inputs (s : State) (v : BitVec 256) : (writeK s v).inputs = s.inputs := rfl
@[simp] theorem writeK_response (s : State) (v : BitVec 256) : (writeK s v).response = s.response := rfl
@[simp] theorem writeK_oobDraws (s : State) (v : BitVec 256) : (writeK s v).oobDraws = s.oobDraws := rfl

/-! ### writeResult -/

@[simp] theorem writeResult_f (s : State) (b : Buffer) : (writeResult s b).f = s.f := rfl
@[simp] theorem writeResult_k (s : State) (b : Buffer) : (writeResult s b).k = s.k := rfl
@[simp] theorem writeResult_secret (s : State) (b : Buffer) : (writeResult s b).secret = s.secret := rfl
@[simp] theorem writeResult_point (s : State) (b : Buffer) : (writeResult s b).point = s.point := rfl
@[simp] theorem writeResult_result (s : State) (b : Buffer) : (writeResult s b).result = b := rfl
@[simp] theorem writeResult_uop (s : State) (b : Buffer) : (writeResult s b).uop = s.uop := rfl
@[simp] theorem writeResult_doneIe (s : State) (b : Buffer) : (writeResult s b).doneIe = s.doneIe := rfl
@[simp] theorem writeResult_busy (s : State) (b : Buffer) : (writeResult s b).busy = s.busy := rfl
@[simp] theorem writeResult_done (s : State) (b : Buffer) : (writeResult s b).done = s.done := rfl
@[simp] theorem writeResult_err (s : State) (b : Buffer) : (writeResult s b).err = s.err := rfl
@[simp] theorem writeResult_ovr (s : State) (b : Buffer) : (writeResult s b).ovr = s.ovr := rfl
@[simp] theorem writeResult_errcode (s : State) (b : Buffer) : (writeResult s b).errcode = s.errcode := rfl
@[simp] theorem writeResult_latchCmd (s : State) (b : Buffer) : (writeResult s b).latchCmd = s.latchCmd := rfl
@[simp] theorem writeResult_latchUop (s : State) (b : Buffer) : (writeResult s b).latchUop = s.latchUop := rfl
@[simp] theorem writeResult_inReset (s : State) (b : Buffer) : (writeResult s b).inReset = s.inReset := rfl
@[simp] theorem writeResult_inputs (s : State) (b : Buffer) : (writeResult s b).inputs = s.inputs := rfl
@[simp] theorem writeResult_response (s : State) (b : Buffer) : (writeResult s b).response = s.response := rfl
@[simp] theorem writeResult_oobDraws (s : State) (b : Buffer) : (writeResult s b).oobDraws = s.oobDraws := rfl

/-! ### writeSecret -/

@[simp] theorem writeSecret_f (s : State) (w : Fin 8) (v : Word) : (writeSecret s w v).f = s.f := rfl
@[simp] theorem writeSecret_k (s : State) (w : Fin 8) (v : Word) : (writeSecret s w v).k = s.k := rfl
@[simp] theorem writeSecret_secret (s : State) (w : Fin 8) (v : Word) : (writeSecret s w v).secret = s.secret.set w.val v := rfl
@[simp] theorem writeSecret_point (s : State) (w : Fin 8) (v : Word) : (writeSecret s w v).point = s.point := rfl
@[simp] theorem writeSecret_result (s : State) (w : Fin 8) (v : Word) : (writeSecret s w v).result = s.result := rfl
@[simp] theorem writeSecret_uop (s : State) (w : Fin 8) (v : Word) : (writeSecret s w v).uop = s.uop := rfl
@[simp] theorem writeSecret_doneIe (s : State) (w : Fin 8) (v : Word) : (writeSecret s w v).doneIe = s.doneIe := rfl
@[simp] theorem writeSecret_busy (s : State) (w : Fin 8) (v : Word) : (writeSecret s w v).busy = s.busy := rfl
@[simp] theorem writeSecret_done (s : State) (w : Fin 8) (v : Word) : (writeSecret s w v).done = s.done := rfl
@[simp] theorem writeSecret_err (s : State) (w : Fin 8) (v : Word) : (writeSecret s w v).err = s.err := rfl
@[simp] theorem writeSecret_ovr (s : State) (w : Fin 8) (v : Word) : (writeSecret s w v).ovr = s.ovr := rfl
@[simp] theorem writeSecret_errcode (s : State) (w : Fin 8) (v : Word) : (writeSecret s w v).errcode = s.errcode := rfl
@[simp] theorem writeSecret_latchCmd (s : State) (w : Fin 8) (v : Word) : (writeSecret s w v).latchCmd = s.latchCmd := rfl
@[simp] theorem writeSecret_latchUop (s : State) (w : Fin 8) (v : Word) : (writeSecret s w v).latchUop = s.latchUop := rfl
@[simp] theorem writeSecret_inReset (s : State) (w : Fin 8) (v : Word) : (writeSecret s w v).inReset = s.inReset := rfl
@[simp] theorem writeSecret_inputs (s : State) (w : Fin 8) (v : Word) : (writeSecret s w v).inputs = s.inputs := rfl
@[simp] theorem writeSecret_response (s : State) (w : Fin 8) (v : Word) : (writeSecret s w v).response = s.response := rfl
@[simp] theorem writeSecret_oobDraws (s : State) (w : Fin 8) (v : Word) : (writeSecret s w v).oobDraws = s.oobDraws := rfl

/-! ### writePoint -/

@[simp] theorem writePoint_f (s : State) (w : Fin 8) (v : Word) : (writePoint s w v).f = s.f := rfl
@[simp] theorem writePoint_k (s : State) (w : Fin 8) (v : Word) : (writePoint s w v).k = s.k := rfl
@[simp] theorem writePoint_secret (s : State) (w : Fin 8) (v : Word) : (writePoint s w v).secret = s.secret := rfl
@[simp] theorem writePoint_point (s : State) (w : Fin 8) (v : Word) : (writePoint s w v).point = s.point.set w.val v := rfl
@[simp] theorem writePoint_result (s : State) (w : Fin 8) (v : Word) : (writePoint s w v).result = s.result := rfl
@[simp] theorem writePoint_uop (s : State) (w : Fin 8) (v : Word) : (writePoint s w v).uop = s.uop := rfl
@[simp] theorem writePoint_doneIe (s : State) (w : Fin 8) (v : Word) : (writePoint s w v).doneIe = s.doneIe := rfl
@[simp] theorem writePoint_busy (s : State) (w : Fin 8) (v : Word) : (writePoint s w v).busy = s.busy := rfl
@[simp] theorem writePoint_done (s : State) (w : Fin 8) (v : Word) : (writePoint s w v).done = s.done := rfl
@[simp] theorem writePoint_err (s : State) (w : Fin 8) (v : Word) : (writePoint s w v).err = s.err := rfl
@[simp] theorem writePoint_ovr (s : State) (w : Fin 8) (v : Word) : (writePoint s w v).ovr = s.ovr := rfl
@[simp] theorem writePoint_errcode (s : State) (w : Fin 8) (v : Word) : (writePoint s w v).errcode = s.errcode := rfl
@[simp] theorem writePoint_latchCmd (s : State) (w : Fin 8) (v : Word) : (writePoint s w v).latchCmd = s.latchCmd := rfl
@[simp] theorem writePoint_latchUop (s : State) (w : Fin 8) (v : Word) : (writePoint s w v).latchUop = s.latchUop := rfl
@[simp] theorem writePoint_inReset (s : State) (w : Fin 8) (v : Word) : (writePoint s w v).inReset = s.inReset := rfl
@[simp] theorem writePoint_inputs (s : State) (w : Fin 8) (v : Word) : (writePoint s w v).inputs = s.inputs := rfl
@[simp] theorem writePoint_response (s : State) (w : Fin 8) (v : Word) : (writePoint s w v).response = s.response := rfl
@[simp] theorem writePoint_oobDraws (s : State) (w : Fin 8) (v : Word) : (writePoint s w v).oobDraws = s.oobDraws := rfl

/-! ### writeUop -/

@[simp] theorem writeUop_f (s : State) (v : Word) : (writeUop s v).f = s.f := rfl
@[simp] theorem writeUop_k (s : State) (v : Word) : (writeUop s v).k = s.k := rfl
@[simp] theorem writeUop_secret (s : State) (v : Word) : (writeUop s v).secret = s.secret := rfl
@[simp] theorem writeUop_point (s : State) (v : Word) : (writeUop s v).point = s.point := rfl
@[simp] theorem writeUop_result (s : State) (v : Word) : (writeUop s v).result = s.result := rfl
@[simp] theorem writeUop_uop (s : State) (v : Word) : (writeUop s v).uop = v := rfl
@[simp] theorem writeUop_doneIe (s : State) (v : Word) : (writeUop s v).doneIe = s.doneIe := rfl
@[simp] theorem writeUop_busy (s : State) (v : Word) : (writeUop s v).busy = s.busy := rfl
@[simp] theorem writeUop_done (s : State) (v : Word) : (writeUop s v).done = s.done := rfl
@[simp] theorem writeUop_err (s : State) (v : Word) : (writeUop s v).err = s.err := rfl
@[simp] theorem writeUop_ovr (s : State) (v : Word) : (writeUop s v).ovr = s.ovr := rfl
@[simp] theorem writeUop_errcode (s : State) (v : Word) : (writeUop s v).errcode = s.errcode := rfl
@[simp] theorem writeUop_latchCmd (s : State) (v : Word) : (writeUop s v).latchCmd = s.latchCmd := rfl
@[simp] theorem writeUop_latchUop (s : State) (v : Word) : (writeUop s v).latchUop = s.latchUop := rfl
@[simp] theorem writeUop_inReset (s : State) (v : Word) : (writeUop s v).inReset = s.inReset := rfl
@[simp] theorem writeUop_inputs (s : State) (v : Word) : (writeUop s v).inputs = s.inputs := rfl
@[simp] theorem writeUop_response (s : State) (v : Word) : (writeUop s v).response = s.response := rfl
@[simp] theorem writeUop_oobDraws (s : State) (v : Word) : (writeUop s v).oobDraws = s.oobDraws := rfl

/-! ### writeStatus -/

@[simp] theorem writeStatus_f (v : Word) (s : State) : (writeStatus v s).f = s.f := rfl
@[simp] theorem writeStatus_k (v : Word) (s : State) : (writeStatus v s).k = s.k := rfl
@[simp] theorem writeStatus_secret (v : Word) (s : State) : (writeStatus v s).secret = s.secret := rfl
@[simp] theorem writeStatus_point (v : Word) (s : State) : (writeStatus v s).point = s.point := rfl
@[simp] theorem writeStatus_result (v : Word) (s : State) : (writeStatus v s).result = s.result := rfl
@[simp] theorem writeStatus_uop (v : Word) (s : State) : (writeStatus v s).uop = s.uop := rfl
@[simp] theorem writeStatus_doneIe (v : Word) (s : State) : (writeStatus v s).doneIe = s.doneIe := rfl
@[simp] theorem writeStatus_busy (v : Word) (s : State) : (writeStatus v s).busy = s.busy := rfl
@[simp] theorem writeStatus_done (v : Word) (s : State) : (writeStatus v s).done = (s.done && !v.getLsbD 1) := rfl
@[simp] theorem writeStatus_err (v : Word) (s : State) : (writeStatus v s).err = s.err := rfl
@[simp] theorem writeStatus_ovr (v : Word) (s : State) : (writeStatus v s).ovr = (s.ovr && !v.getLsbD 3) := rfl
@[simp] theorem writeStatus_errcode (v : Word) (s : State) : (writeStatus v s).errcode = s.errcode := rfl
@[simp] theorem writeStatus_latchCmd (v : Word) (s : State) : (writeStatus v s).latchCmd = s.latchCmd := rfl
@[simp] theorem writeStatus_latchUop (v : Word) (s : State) : (writeStatus v s).latchUop = s.latchUop := rfl
@[simp] theorem writeStatus_inReset (v : Word) (s : State) : (writeStatus v s).inReset = s.inReset := rfl
@[simp] theorem writeStatus_inputs (v : Word) (s : State) : (writeStatus v s).inputs = s.inputs := rfl
@[simp] theorem writeStatus_response (v : Word) (s : State) : (writeStatus v s).response = s.response := rfl
@[simp] theorem writeStatus_oobDraws (v : Word) (s : State) : (writeStatus v s).oobDraws = s.oobDraws := rfl

/-! ### writeIrqEn -/

@[simp] theorem writeIrqEn_f (v : Word) (s : State) : (writeIrqEn v s).f = s.f := rfl
@[simp] theorem writeIrqEn_k (v : Word) (s : State) : (writeIrqEn v s).k = s.k := rfl
@[simp] theorem writeIrqEn_secret (v : Word) (s : State) : (writeIrqEn v s).secret = s.secret := rfl
@[simp] theorem writeIrqEn_point (v : Word) (s : State) : (writeIrqEn v s).point = s.point := rfl
@[simp] theorem writeIrqEn_result (v : Word) (s : State) : (writeIrqEn v s).result = s.result := rfl
@[simp] theorem writeIrqEn_uop (v : Word) (s : State) : (writeIrqEn v s).uop = s.uop := rfl
@[simp] theorem writeIrqEn_doneIe (v : Word) (s : State) : (writeIrqEn v s).doneIe = v.getLsbD 0 := rfl
@[simp] theorem writeIrqEn_busy (v : Word) (s : State) : (writeIrqEn v s).busy = s.busy := rfl
@[simp] theorem writeIrqEn_done (v : Word) (s : State) : (writeIrqEn v s).done = s.done := rfl
@[simp] theorem writeIrqEn_err (v : Word) (s : State) : (writeIrqEn v s).err = s.err := rfl
@[simp] theorem writeIrqEn_ovr (v : Word) (s : State) : (writeIrqEn v s).ovr = s.ovr := rfl
@[simp] theorem writeIrqEn_errcode (v : Word) (s : State) : (writeIrqEn v s).errcode = s.errcode := rfl
@[simp] theorem writeIrqEn_latchCmd (v : Word) (s : State) : (writeIrqEn v s).latchCmd = s.latchCmd := rfl
@[simp] theorem writeIrqEn_latchUop (v : Word) (s : State) : (writeIrqEn v s).latchUop = s.latchUop := rfl
@[simp] theorem writeIrqEn_inReset (v : Word) (s : State) : (writeIrqEn v s).inReset = s.inReset := rfl
@[simp] theorem writeIrqEn_inputs (v : Word) (s : State) : (writeIrqEn v s).inputs = s.inputs := rfl
@[simp] theorem writeIrqEn_response (v : Word) (s : State) : (writeIrqEn v s).response = s.response := rfl
@[simp] theorem writeIrqEn_oobDraws (v : Word) (s : State) : (writeIrqEn v s).oobDraws = s.oobDraws := rfl

/-! ### setOverrun -/

@[simp] theorem setOverrun_f (s : State) : (setOverrun s).f = s.f := rfl
@[simp] theorem setOverrun_k (s : State) : (setOverrun s).k = s.k := rfl
@[simp] theorem setOverrun_secret (s : State) : (setOverrun s).secret = s.secret := rfl
@[simp] theorem setOverrun_point (s : State) : (setOverrun s).point = s.point := rfl
@[simp] theorem setOverrun_result (s : State) : (setOverrun s).result = s.result := rfl
@[simp] theorem setOverrun_uop (s : State) : (setOverrun s).uop = s.uop := rfl
@[simp] theorem setOverrun_doneIe (s : State) : (setOverrun s).doneIe = s.doneIe := rfl
@[simp] theorem setOverrun_busy (s : State) : (setOverrun s).busy = s.busy := rfl
@[simp] theorem setOverrun_done (s : State) : (setOverrun s).done = s.done := rfl
@[simp] theorem setOverrun_err (s : State) : (setOverrun s).err = s.err := rfl
@[simp] theorem setOverrun_ovr (s : State) : (setOverrun s).ovr = true := rfl
@[simp] theorem setOverrun_errcode (s : State) : (setOverrun s).errcode = s.errcode := rfl
@[simp] theorem setOverrun_latchCmd (s : State) : (setOverrun s).latchCmd = s.latchCmd := rfl
@[simp] theorem setOverrun_latchUop (s : State) : (setOverrun s).latchUop = s.latchUop := rfl
@[simp] theorem setOverrun_inReset (s : State) : (setOverrun s).inReset = s.inReset := rfl
@[simp] theorem setOverrun_inputs (s : State) : (setOverrun s).inputs = s.inputs := rfl
@[simp] theorem setOverrun_response (s : State) : (setOverrun s).response = s.response := rfl
@[simp] theorem setOverrun_oobDraws (s : State) : (setOverrun s).oobDraws = s.oobDraws := rfl

/-! ### startCommand -/

@[simp] theorem startCommand_f (v : Word) (s : State) : (startCommand v s).f = s.f := rfl
@[simp] theorem startCommand_k (v : Word) (s : State) : (startCommand v s).k = s.k := rfl
@[simp] theorem startCommand_secret (v : Word) (s : State) : (startCommand v s).secret = s.secret := rfl
@[simp] theorem startCommand_point (v : Word) (s : State) : (startCommand v s).point = s.point := rfl
@[simp] theorem startCommand_result (v : Word) (s : State) : (startCommand v s).result = s.result := rfl
@[simp] theorem startCommand_uop (v : Word) (s : State) : (startCommand v s).uop = s.uop := rfl
@[simp] theorem startCommand_doneIe (v : Word) (s : State) : (startCommand v s).doneIe = s.doneIe := rfl
@[simp] theorem startCommand_busy (v : Word) (s : State) : (startCommand v s).busy = true := rfl
@[simp] theorem startCommand_done (v : Word) (s : State) : (startCommand v s).done = false := rfl
@[simp] theorem startCommand_err (v : Word) (s : State) : (startCommand v s).err = false := rfl
@[simp] theorem startCommand_ovr (v : Word) (s : State) : (startCommand v s).ovr = s.ovr := rfl
@[simp] theorem startCommand_errcode (v : Word) (s : State) : (startCommand v s).errcode = 0 := rfl
@[simp] theorem startCommand_latchCmd (v : Word) (s : State) : (startCommand v s).latchCmd = v := rfl
@[simp] theorem startCommand_latchUop (v : Word) (s : State) : (startCommand v s).latchUop = s.uop := rfl
@[simp] theorem startCommand_inReset (v : Word) (s : State) : (startCommand v s).inReset = s.inReset := rfl
@[simp] theorem startCommand_inputs (v : Word) (s : State) : (startCommand v s).inputs = s.inputs := rfl
@[simp] theorem startCommand_response (v : Word) (s : State) : (startCommand v s).response = s.response := rfl
@[simp] theorem startCommand_oobDraws (v : Word) (s : State) : (startCommand v s).oobDraws = s.oobDraws := rfl

/-! ### finishCommand -/

@[simp] theorem finishCommand_f (s : State) : (finishCommand s).f = s.f := rfl
@[simp] theorem finishCommand_k (s : State) : (finishCommand s).k = s.k := rfl
@[simp] theorem finishCommand_secret (s : State) : (finishCommand s).secret = s.secret := rfl
@[simp] theorem finishCommand_point (s : State) : (finishCommand s).point = s.point := rfl
@[simp] theorem finishCommand_result (s : State) : (finishCommand s).result = s.result := rfl
@[simp] theorem finishCommand_uop (s : State) : (finishCommand s).uop = s.uop := rfl
@[simp] theorem finishCommand_doneIe (s : State) : (finishCommand s).doneIe = s.doneIe := rfl
@[simp] theorem finishCommand_busy (s : State) : (finishCommand s).busy = false := rfl
@[simp] theorem finishCommand_done (s : State) : (finishCommand s).done = true := rfl
@[simp] theorem finishCommand_err (s : State) : (finishCommand s).err = false := rfl
@[simp] theorem finishCommand_ovr (s : State) : (finishCommand s).ovr = s.ovr := rfl
@[simp] theorem finishCommand_errcode (s : State) : (finishCommand s).errcode = 0 := rfl
@[simp] theorem finishCommand_latchCmd (s : State) : (finishCommand s).latchCmd = s.latchCmd := rfl
@[simp] theorem finishCommand_latchUop (s : State) : (finishCommand s).latchUop = s.latchUop := rfl
@[simp] theorem finishCommand_inReset (s : State) : (finishCommand s).inReset = s.inReset := rfl
@[simp] theorem finishCommand_inputs (s : State) : (finishCommand s).inputs = s.inputs := rfl
@[simp] theorem finishCommand_response (s : State) : (finishCommand s).response = s.response := rfl
@[simp] theorem finishCommand_oobDraws (s : State) : (finishCommand s).oobDraws = s.oobDraws := rfl

/-! ### takeCmdError -/

@[simp] theorem takeCmdError_f (c : CmdError) (s : State) : (takeCmdError c s).f = s.f := rfl
@[simp] theorem takeCmdError_k (c : CmdError) (s : State) : (takeCmdError c s).k = s.k := rfl
@[simp] theorem takeCmdError_secret (c : CmdError) (s : State) : (takeCmdError c s).secret = s.secret := rfl
@[simp] theorem takeCmdError_point (c : CmdError) (s : State) : (takeCmdError c s).point = s.point := rfl
@[simp] theorem takeCmdError_result (c : CmdError) (s : State) : (takeCmdError c s).result = s.result := rfl
@[simp] theorem takeCmdError_uop (c : CmdError) (s : State) : (takeCmdError c s).uop = s.uop := rfl
@[simp] theorem takeCmdError_doneIe (c : CmdError) (s : State) : (takeCmdError c s).doneIe = s.doneIe := rfl
@[simp] theorem takeCmdError_busy (c : CmdError) (s : State) : (takeCmdError c s).busy = false := rfl
@[simp] theorem takeCmdError_done (c : CmdError) (s : State) : (takeCmdError c s).done = true := rfl
@[simp] theorem takeCmdError_err (c : CmdError) (s : State) : (takeCmdError c s).err = true := rfl
@[simp] theorem takeCmdError_ovr (c : CmdError) (s : State) : (takeCmdError c s).ovr = s.ovr := rfl
@[simp] theorem takeCmdError_errcode (c : CmdError) (s : State) : (takeCmdError c s).errcode = errorCode c := rfl
@[simp] theorem takeCmdError_latchCmd (c : CmdError) (s : State) : (takeCmdError c s).latchCmd = s.latchCmd := rfl
@[simp] theorem takeCmdError_latchUop (c : CmdError) (s : State) : (takeCmdError c s).latchUop = s.latchUop := rfl
@[simp] theorem takeCmdError_inReset (c : CmdError) (s : State) : (takeCmdError c s).inReset = s.inReset := rfl
@[simp] theorem takeCmdError_inputs (c : CmdError) (s : State) : (takeCmdError c s).inputs = s.inputs := rfl
@[simp] theorem takeCmdError_response (c : CmdError) (s : State) : (takeCmdError c s).response = s.response := rfl
@[simp] theorem takeCmdError_oobDraws (c : CmdError) (s : State) : (takeCmdError c s).oobDraws = s.oobDraws := rfl

/-! ### takeInput -/

@[simp] theorem takeInput_f (s : State) (rest : List Input) : (takeInput s rest).f = s.f := rfl
@[simp] theorem takeInput_k (s : State) (rest : List Input) : (takeInput s rest).k = s.k := rfl
@[simp] theorem takeInput_secret (s : State) (rest : List Input) : (takeInput s rest).secret = s.secret := rfl
@[simp] theorem takeInput_point (s : State) (rest : List Input) : (takeInput s rest).point = s.point := rfl
@[simp] theorem takeInput_result (s : State) (rest : List Input) : (takeInput s rest).result = s.result := rfl
@[simp] theorem takeInput_uop (s : State) (rest : List Input) : (takeInput s rest).uop = s.uop := rfl
@[simp] theorem takeInput_doneIe (s : State) (rest : List Input) : (takeInput s rest).doneIe = s.doneIe := rfl
@[simp] theorem takeInput_busy (s : State) (rest : List Input) : (takeInput s rest).busy = s.busy := rfl
@[simp] theorem takeInput_done (s : State) (rest : List Input) : (takeInput s rest).done = s.done := rfl
@[simp] theorem takeInput_err (s : State) (rest : List Input) : (takeInput s rest).err = s.err := rfl
@[simp] theorem takeInput_ovr (s : State) (rest : List Input) : (takeInput s rest).ovr = s.ovr := rfl
@[simp] theorem takeInput_errcode (s : State) (rest : List Input) : (takeInput s rest).errcode = s.errcode := rfl
@[simp] theorem takeInput_latchCmd (s : State) (rest : List Input) : (takeInput s rest).latchCmd = s.latchCmd := rfl
@[simp] theorem takeInput_latchUop (s : State) (rest : List Input) : (takeInput s rest).latchUop = s.latchUop := rfl
@[simp] theorem takeInput_inReset (s : State) (rest : List Input) : (takeInput s rest).inReset = s.inReset := rfl
@[simp] theorem takeInput_inputs (s : State) (rest : List Input) : (takeInput s rest).inputs = rest := rfl
@[simp] theorem takeInput_response (s : State) (rest : List Input) : (takeInput s rest).response = s.response := rfl
@[simp] theorem takeInput_oobDraws (s : State) (rest : List Input) : (takeInput s rest).oobDraws = s.oobDraws := rfl

/-! ### respond -/

@[simp] theorem respond_f (s : State) (r : HostResponse) : (respond s r).f = s.f := rfl
@[simp] theorem respond_k (s : State) (r : HostResponse) : (respond s r).k = s.k := rfl
@[simp] theorem respond_secret (s : State) (r : HostResponse) : (respond s r).secret = s.secret := rfl
@[simp] theorem respond_point (s : State) (r : HostResponse) : (respond s r).point = s.point := rfl
@[simp] theorem respond_result (s : State) (r : HostResponse) : (respond s r).result = s.result := rfl
@[simp] theorem respond_uop (s : State) (r : HostResponse) : (respond s r).uop = s.uop := rfl
@[simp] theorem respond_doneIe (s : State) (r : HostResponse) : (respond s r).doneIe = s.doneIe := rfl
@[simp] theorem respond_busy (s : State) (r : HostResponse) : (respond s r).busy = s.busy := rfl
@[simp] theorem respond_done (s : State) (r : HostResponse) : (respond s r).done = s.done := rfl
@[simp] theorem respond_err (s : State) (r : HostResponse) : (respond s r).err = s.err := rfl
@[simp] theorem respond_ovr (s : State) (r : HostResponse) : (respond s r).ovr = s.ovr := rfl
@[simp] theorem respond_errcode (s : State) (r : HostResponse) : (respond s r).errcode = s.errcode := rfl
@[simp] theorem respond_latchCmd (s : State) (r : HostResponse) : (respond s r).latchCmd = s.latchCmd := rfl
@[simp] theorem respond_latchUop (s : State) (r : HostResponse) : (respond s r).latchUop = s.latchUop := rfl
@[simp] theorem respond_inReset (s : State) (r : HostResponse) : (respond s r).inReset = s.inReset := rfl
@[simp] theorem respond_inputs (s : State) (r : HostResponse) : (respond s r).inputs = s.inputs := rfl
@[simp] theorem respond_response (s : State) (r : HostResponse) : (respond s r).response = r := rfl
@[simp] theorem respond_oobDraws (s : State) (r : HostResponse) : (respond s r).oobDraws = s.oobDraws := rfl

/-! ### releaseReset -/

@[simp] theorem releaseReset_f (s : State) : (releaseReset s).f = s.f := rfl
@[simp] theorem releaseReset_k (s : State) : (releaseReset s).k = s.k := rfl
@[simp] theorem releaseReset_secret (s : State) : (releaseReset s).secret = s.secret := rfl
@[simp] theorem releaseReset_point (s : State) : (releaseReset s).point = s.point := rfl
@[simp] theorem releaseReset_result (s : State) : (releaseReset s).result = s.result := rfl
@[simp] theorem releaseReset_uop (s : State) : (releaseReset s).uop = s.uop := rfl
@[simp] theorem releaseReset_doneIe (s : State) : (releaseReset s).doneIe = s.doneIe := rfl
@[simp] theorem releaseReset_busy (s : State) : (releaseReset s).busy = s.busy := rfl
@[simp] theorem releaseReset_done (s : State) : (releaseReset s).done = s.done := rfl
@[simp] theorem releaseReset_err (s : State) : (releaseReset s).err = s.err := rfl
@[simp] theorem releaseReset_ovr (s : State) : (releaseReset s).ovr = s.ovr := rfl
@[simp] theorem releaseReset_errcode (s : State) : (releaseReset s).errcode = s.errcode := rfl
@[simp] theorem releaseReset_latchCmd (s : State) : (releaseReset s).latchCmd = s.latchCmd := rfl
@[simp] theorem releaseReset_latchUop (s : State) : (releaseReset s).latchUop = s.latchUop := rfl
@[simp] theorem releaseReset_inReset (s : State) : (releaseReset s).inReset = false := rfl
@[simp] theorem releaseReset_inputs (s : State) : (releaseReset s).inputs = s.inputs := rfl
@[simp] theorem releaseReset_response (s : State) : (releaseReset s).response = s.response := rfl
@[simp] theorem releaseReset_oobDraws (s : State) : (releaseReset s).oobDraws = s.oobDraws := rfl

/-! ### assertReset -/

@[simp] theorem assertReset_f (s : State) : (assertReset s).f = State.reset.f := rfl
@[simp] theorem assertReset_k (s : State) : (assertReset s).k = State.reset.k := rfl
@[simp] theorem assertReset_secret (s : State) : (assertReset s).secret = State.reset.secret := rfl
@[simp] theorem assertReset_point (s : State) : (assertReset s).point = State.reset.point := rfl
@[simp] theorem assertReset_result (s : State) : (assertReset s).result = State.reset.result := rfl
@[simp] theorem assertReset_uop (s : State) : (assertReset s).uop = State.reset.uop := rfl
@[simp] theorem assertReset_doneIe (s : State) : (assertReset s).doneIe = State.reset.doneIe := rfl
@[simp] theorem assertReset_busy (s : State) : (assertReset s).busy = State.reset.busy := rfl
@[simp] theorem assertReset_done (s : State) : (assertReset s).done = State.reset.done := rfl
@[simp] theorem assertReset_err (s : State) : (assertReset s).err = State.reset.err := rfl
@[simp] theorem assertReset_ovr (s : State) : (assertReset s).ovr = State.reset.ovr := rfl
@[simp] theorem assertReset_errcode (s : State) : (assertReset s).errcode = State.reset.errcode := rfl
@[simp] theorem assertReset_latchCmd (s : State) : (assertReset s).latchCmd = State.reset.latchCmd := rfl
@[simp] theorem assertReset_latchUop (s : State) : (assertReset s).latchUop = State.reset.latchUop := rfl
@[simp] theorem assertReset_inReset (s : State) : (assertReset s).inReset = true := rfl
@[simp] theorem assertReset_inputs (s : State) : (assertReset s).inputs = s.inputs := rfl
@[simp] theorem assertReset_response (s : State) : (assertReset s).response = s.response := rfl
@[simp] theorem assertReset_oobDraws (s : State) : (assertReset s).oobDraws = s.oobDraws := rfl

end Sys2Proof.Machine
end

