-- ==== Sys2Proof/Laws/Field.lean ====
section
/-! SUPPORT. The pure field functions: evaluation order removed, shifts and masks as division and remainder, limb
vectors and registers. -/

namespace Sys2Proof.Machine

/-! ### Evaluation order -/

@[simp] theorem evalNat_eq {α : Type} (n : Nat) (k : Nat → α) : evalNat n k = k n := by cases n <;> rfl

@[simp] theorem mkLimbs_eq (l0 l1 l2 l3 l4 : Nat) : mkLimbs l0 l1 l2 l3 l4 = ⟨l0, l1, l2, l3, l4⟩ := by
  simp [mkLimbs]

/-! ### Shifts and masks -/

theorem low51_eq_mod (x : Nat) : low51 x = x % 2 ^ 51 := Nat.and_two_pow_sub_one_eq_mod x 51

theorem carry51_eq_div (x : Nat) : carry51 x = x / 2 ^ 51 := Nat.shiftRight_eq_div_pow x 51

theorem low51_lt (x : Nat) : low51 x < 2 ^ 51 := by rw [low51_eq_mod]; exact Nat.mod_lt _ (by decide)

theorem low51_add_carry51 (x : Nat) : low51 x + 2 ^ 51 * carry51 x = x := by
  rw [low51_eq_mod, carry51_eq_div]; exact Nat.mod_add_div x (2 ^ 51)

/-! ### Limb vectors and registers -/

theorem regLimbs_below (r : FieldReg) : LimbsBelow (2 ^ 64) (regLimbs r) :=
  ⟨r.l0.isLt, r.l1.isLt, r.l2.isLt, r.l3.isLt, r.l4.isLt⟩

/-- Storing and reading back loses nothing of limbs below 2^64. -/
theorem regLimbs_limbsReg {a : Limbs} (h : LimbsBelow (2 ^ 64) a) : regLimbs (limbsReg a) = a := by
  obtain ⟨h0, h1, h2, h3, h4⟩ := h
  ext <;> simp only [regLimbs, limbsReg, BitVec.toNat_ofNat] <;> exact Nat.mod_eq_of_lt ‹_›

@[simp] theorem limbsReg_regLimbs (r : FieldReg) : limbsReg (regLimbs r) = r := by
  cases r; simp [regLimbs, limbsReg]

/-! ### The functions, one equation each -/

theorem fieldAdd_eq (a b : Limbs) :
    fieldAdd a b = ⟨a.l0 + b.l0, a.l1 + b.l1, a.l2 + b.l2, a.l3 + b.l3, a.l4 + b.l4⟩ := by
  simp [fieldAdd]

theorem fieldSub_eq (a b : Limbs) :
    fieldSub a b = ⟨a.l0 + (2 ^ 54 - 152) - b.l0, a.l1 + (2 ^ 54 - 8) - b.l1, a.l2 + (2 ^ 54 - 8) - b.l2,
      a.l3 + (2 ^ 54 - 8) - b.l3, a.l4 + (2 ^ 54 - 8) - b.l4⟩ := by
  simp [fieldSub, subBias]

/-- A carry pass keeps the value: the masked sums and the final carry, with weight 2^255. -/
theorem carrySums_value (t : Limbs) :
    low51 (carrySums t).l0 + low51 (carrySums t).l1 * 2 ^ 51 + low51 (carrySums t).l2 * 2 ^ 102 +
      low51 (carrySums t).l3 * 2 ^ 153 + low51 (carrySums t).l4 * 2 ^ 204 + carry51 (carrySums t).l4 * 2 ^ 255 =
    limbsVal t := by
  simp only [carrySums, mkLimbs_eq, limbsVal, low51_eq_mod, carry51_eq_div]
  omega

theorem fieldSqTimes_zero (x : Limbs) : fieldSqTimes 0 x = x := rfl

theorem fieldSqTimes_succ (n : Nat) (x : Limbs) : fieldSqTimes (n + 1) x = fieldSqTimes n (fieldMul x x) := rfl

theorem fieldSqTimes_add (m n : Nat) (x : Limbs) : fieldSqTimes (m + n) x = fieldSqTimes n (fieldSqTimes m x) := by
  induction m generalizing x with
  | zero => simp [fieldSqTimes_zero]
  | succ m ih => rw [Nat.succ_add, fieldSqTimes_succ, ih, ← fieldSqTimes_succ]

theorem expand_eq (n : Nat) :
    expand n = ⟨n % 2 ^ 51, n / 2 ^ 51 % 2 ^ 51, n / 2 ^ 102 % 2 ^ 51, n / 2 ^ 153 % 2 ^ 51, n / 2 ^ 204 % 2 ^ 51⟩ := by
  simp only [expand, mkLimbs_eq, low51_eq_mod, Nat.shiftRight_eq_div_pow]

/-! ### The masked swap (R170) -/

theorem maskedSwap_keep (x y : Limbs) : maskedSwap (swapMask 0) x y = (x, y) := by
  simp [maskedSwap, swapMask]

theorem maskedSwap_exchange {x y : Limbs} (hx : LimbsBelow (2 ^ 64) x) (hy : LimbsBelow (2 ^ 64) y) :
    maskedSwap (swapMask 1) x y = (y, x) := by
  have h : ∀ {a b : Nat}, a < 2 ^ 64 → b < 2 ^ 64 → swapMask 1 &&& (a ^^^ b) = a ^^^ b := by
    intro a b ha hb
    have hm : swapMask 1 = 2 ^ 64 - 1 := by decide
    rw [hm, Nat.and_comm, Nat.and_two_pow_sub_one_eq_mod, Nat.mod_eq_of_lt (Nat.xor_lt_two_pow ha hb)]
  obtain ⟨x0, x1, x2, x3, x4⟩ := hx
  obtain ⟨y0, y1, y2, y3, y4⟩ := hy
  have hr : ∀ a b : Nat, b ^^^ (a ^^^ b) = a := fun a b => by
    rw [Nat.xor_comm a b, ← Nat.xor_assoc, Nat.xor_self, Nat.zero_xor]
  simp [maskedSwap, h x0 y0, h x1 y1, h x2 y2, h x3 y3, h x4 y4, hr]

/-- A value swapped with itself stays, whatever the mask. -/
theorem maskedSwap_self (mask : Nat) (x : Limbs) : maskedSwap mask x x = (x, x) := by
  simp [maskedSwap]

end Sys2Proof.Machine
end

