-- ==== Sys2Proof/Laws/Ops.lean ====
section
/-! SUPPORT. One spec lemma per shared operation: field registers, buffers, the host window, sequencing. -/

namespace Sys2Proof.Machine

/-! ### Field registers -/

theorem readF_writeF (s : State) (r q : FReg) (v : FieldReg) :
    readF (writeF s r v) q = if q = r then v else readF s q := by
  simp only [readF, writeF_f, Vector.getElem_set]
  split <;> split <;> simp_all [Fin.ext_iff, eq_comm]

@[simp] theorem readF_writeF_self (s : State) (r : FReg) (v : FieldReg) : readF (writeF s r v) r = v := by
  simp [readF_writeF]

theorem readF_writeF_ne (s : State) {r q : FReg} (v : FieldReg) (h : q ≠ r) :
    readF (writeF s r v) q = readF s q := by
  simp [readF_writeF, h]

/-- Writing back what a register holds changes nothing. -/
theorem writeF_readF (s : State) (r : FReg) : writeF s r (readF s r) = s := by
  simp [writeF, readF]

theorem readF_writeOob (s : State) (r q : FReg) :
    readF (writeOob s r) q = if q = r then oobReg s.oobDraws else readF s q := readF_writeF s r q _

/-- A result whose limbs fit 64 bits is read back as it was computed. -/
theorem fieldOf_writeF_self (s : State) (r : FReg) {a : Limbs} (h : LimbsBelow (2 ^ 64) a) :
    fieldOf (writeF s r (limbsReg a)) r = a := by
  simp [fieldOf, regLimbs_limbsReg h]

theorem fieldOf_below (s : State) (r : FReg) : LimbsBelow (2 ^ 64) (fieldOf s r) := regLimbs_below _

@[simp] theorem readF_clearF (s : State) (r : FReg) : readF (clearF s) r = zeroReg := by
  simp [readF]

/-- Writing one field register is a frame of that register. -/
theorem writeF_onlyFieldRegs (s : State) (r : FReg) (v : FieldReg) : OnlyFieldRegs [r] s (writeF s r v) :=
  ⟨rfl, fun _ hq => readF_writeF_ne s v (by simpa using hq)⟩

/-- An OOB draw is a frame of its register that draws once. -/
theorem writeOob_onlyFieldRegs (s : State) (r : FReg) : OnlyFieldRegsDrawing 1 [r] s (writeOob s r) :=
  ⟨rfl, fun _ hq => readF_writeF_ne s _ (by simpa using hq)⟩

/-- Frames of field registers compose. -/
theorem onlyFieldRegs_trans {d e : List FReg} {s t u : State} (h : OnlyFieldRegs d s t) (g : OnlyFieldRegs e t u) :
    OnlyFieldRegs (d ++ e) s u := by
  obtain ⟨ht, hr⟩ := h
  obtain ⟨hu, gr⟩ := g
  refine ⟨?_, fun r hm => ?_⟩
  · rw [hu, ht]
  · rw [List.mem_append, not_or] at hm
    rw [gr r hm.2, hr r hm.1]

/-! ### Buffers -/

theorem bufferVal_eq (b : Buffer) :
    bufferVal b = b[0].toNat + 2 ^ 32 * (b[1].toNat + 2 ^ 32 * (b[2].toNat + 2 ^ 32 * (b[3].toNat +
      2 ^ 32 * (b[4].toNat + 2 ^ 32 * (b[5].toNat + 2 ^ 32 * (b[6].toNat + 2 ^ 32 * b[7].toNat)))))) := by
  obtain ⟨⟨l⟩, h⟩ := b
  match l, h with
  | [_, _, _, _, _, _, _, _], _ => simp [bufferVal]

theorem bufferVal_lt (b : Buffer) : bufferVal b < 2 ^ 256 := by
  rw [bufferVal_eq]
  have h0 := b[0].isLt; have h1 := b[1].isLt; have h2 := b[2].isLt; have h3 := b[3].isLt
  have h4 := b[4].isLt; have h5 := b[5].isLt; have h6 := b[6].isLt; have h7 := b[7].isLt
  omega

@[simp] theorem toLE32_getElem (n w : Nat) (h : w < 8) : (toLE32 n)[w] = BitVec.ofNat 32 (n >>> (32 * w)) := by
  simp [toLE32]

/-- toLE32 is the buffer whose LE is n, for n < 2^256 (R10). -/
theorem bufferVal_toLE32 {n : Nat} (h : n < 2 ^ 256) : bufferVal (toLE32 n) = n := by
  rw [bufferVal_eq]
  simp only [toLE32_getElem, BitVec.toNat_ofNat, Nat.shiftRight_eq_div_pow]
  omega

/-! ### Sequencing -/

@[simp] theorem andThen_next (s : State) (k : State → Result) : andThen (.next s) k = k s := rfl

/-- What a next state of a sequence came from. -/
theorem andThen_eq_next {o : Result} {k : State → Result} {t : State} (h : andThen o k = .next t) :
    ∃ s, o = .next s ∧ k s = .next t := by
  cases o with
  | next s => exact ⟨s, rfl, h⟩
  | fault r => cases r
  | refused r => simp [andThen] at h

/-! ### The engine's turn -/

theorem engineTurn_busy (run : Instr → State → Result) {s : State} (hb : s.busy = true) (hr : s.inReset = false) :
    engineTurn run s = completeCommand run s := by
  simp [engineTurn, hb, hr]

theorem engineTurn_idle (run : Instr → State → Result) {s : State} (h : s.busy = false ∨ s.inReset = true) :
    engineTurn run s = .next s := by
  rcases h with h | h <;> simp [engineTurn, h]

theorem decodeCmd_ok {w : Word} {i : Instr} (h : decodeCmd w = .ok i) :
    (w = 1 ∧ i = .derive) ∨ (w = 2 ∧ i = .execUop) := by
  unfold decodeCmd at h
  split at h
  · next hw => cases h; exact .inl ⟨hw, rfl⟩
  · split at h
    · next hw => cases h; exact .inr ⟨hw, rfl⟩
    · cases h

/-! ### The host window -/

/-- What one accepted or refused access does: a read answers data and changes nothing else, a write does what its
register's rule says, a refused access changes nothing but the answer. -/
theorem accessWindow_cases (offset : Fin 128) (a : HostAccess) (s : State) :
    (accepted offset a = true ∧ a.op = .read ∧
      accessWindow offset a s = respond s (.data (readWindow (windowReg offset) s))) ∨
    (∃ v, accepted offset a = true ∧ a.op = .write v ∧
      accessWindow offset a s = respond (writeWindow (windowReg offset) v s) .written) ∨
    (accepted offset a = false ∧ accessWindow offset a s = respond s .busError) := by
  unfold accessWindow
  cases ha : accepted offset a <;> cases ho : a.op <;> simp

/-- What a window write leaves alone in every case: F, K, RESULT, the surroundings' part and the count of draws. -/
theorem writeWindow_frame (r : WindowReg) (v : Word) (s : State) :
    (writeWindow r v s).f = s.f ∧ (writeWindow r v s).k = s.k ∧ (writeWindow r v s).result = s.result ∧
    (writeWindow r v s).inReset = s.inReset ∧ (writeWindow r v s).inputs = s.inputs ∧
    (writeWindow r v s).response = s.response ∧ (writeWindow r v s).oobDraws = s.oobDraws := by
  cases r <;> dsimp only [writeWindow, unlessBusy] <;> (try split) <;> simp

/-- What the host's turn can answer. -/
theorem hostTurn_cases (a : HostAccess) (s : State) :
    (a.target = .outside ∧ hostTurn a s = .next (respond s .platform)) ∨
    (∃ off, a.target = .window off ∧ s.inReset = true ∧ hostTurn a s = .refused .accessDuringReset) ∨
    (∃ off, a.target = .window off ∧ s.inReset = false ∧ hostTurn a s = .next (accessWindow off a s)) := by
  unfold hostTurn
  cases ha : a.target with
  | outside => exact .inl ⟨rfl, rfl⟩
  | window off => cases hr : s.inReset <;> simp

@[simp] theorem targetOfOffset_window (off : Fin 128) : targetOfOffset off.val = .window off := by
  simp [targetOfOffset, windowBytes]

theorem targetOfOffset_outside {n : Nat} (h : 128 ≤ n) : targetOfOffset n = .outside := by
  simp [targetOfOffset, windowBytes, Nat.not_lt.2 h]

@[simp] theorem burst_nil (locate : Nat → Target) (n : Nat) : burst locate n [] = [] := rfl

@[simp] theorem burst_cons (locate : Nat → Target) (n : Nat) (op : HostOp) (ops : List HostOp) :
    burst locate n (op :: ops) = singleAccess (locate n) op :: burst locate (n + 4) ops := rfl

@[simp] theorem burst_length (locate : Nat → Target) (n : Nat) (ops : List HostOp) :
    (burst locate n ops).length = ops.length := by
  induction ops generalizing n with
  | nil => rfl
  | cons op ops ih => simp [ih]

theorem burst_append (locate : Nat → Target) (n : Nat) (ops qs : List HostOp) :
    burst locate n (ops ++ qs) = burst locate n ops ++ burst locate (n + 4 * ops.length) qs := by
  induction ops generalizing n with
  | nil => rfl
  | cons op ops ih => simp [ih, Nat.mul_add, Nat.add_assoc, Nat.add_comm 4]

/-! ### The step, one equation per input -/

theorem step_nil {s : State} (h : s.inputs = []) : step s = engineTurn exec s := by simp [step, h]

theorem step_engine {s : State} {rest : List Input} (h : s.inputs = .engine :: rest) :
    step s = engineTurn exec (takeInput s rest) := by simp [step, h]

theorem step_host {s : State} {a : HostAccess} {rest : List Input} (h : s.inputs = .host a :: rest) :
    step s = hostTurn a (takeInput s rest) := by simp [step, h]

theorem step_resetAssert {s : State} {rest : List Input} (h : s.inputs = .resetAssert :: rest) :
    step s = .next (assertReset (takeInput s rest)) := by simp [step, h]

theorem step_resetRelease {s : State} {rest : List Input} (h : s.inputs = .resetRelease :: rest) :
    step s = .next (releaseReset (takeInput s rest)) := by simp [step, h]

/-- exec and `execute(op)` agree on micro-ops, so what DERIVE and EXEC_UOP run is exec of the decoded instruction. -/
theorem executeUop_eq_exec {i : Instr} (h : isUop i = true) (s : State) : executeUop i s = exec i s := by
  cases i <;> first | rfl | simp [isUop] at h

end Sys2Proof.Machine
end

