-- ==== Sys2Proof/Laws/PerInstr.lean ====
section
/-! SUPPORT. Statements made per instruction: the encoding against the opcode table. -/

namespace Sys2Proof.Laws

/-- The `mask` and `match` columns of spec/opcode_table.json. -/
def tableRow : Instr → Word × Word
  | .fadd _ _ _ => (0xFF000FFF, 0x01000000)
  | .fsub _ _ _ => (0xFF000FFF, 0x02000000)
  | .fmul _ _ _ => (0xFF000FFF, 0x03000000)
  | .fsqr _ _ _ => (0xFF00F000, 0x04000000)
  | .fmula24 _ _ => (0xFF00FFFF, 0x05000000)
  | .fmov _ _ => (0xFF00FFFF, 0x06000000)
  | .fseti _ _ => (0xFF0FF000, 0x07000000)
  | .cswap _ _ _ => (0xFFF00F00, 0x08000000)
  | .kload => (0xFFFFFFFF, 0x09000000)
  | .fload _ => (0xFF0FFFFF, 0x0A000000)
  | .fstore _ => (0xFFF0FFFF, 0x0B000000)
  | .finv _ _ => (0xFF00FFFF, 0x0C000000)
  | .lstep => (0xFFFFFFFF, 0x0D000000)
  | .smul => (0xFFFFFFFF, 0x0E000000)
  | .wipe => (0xFFFFFFFF, 0x0F000000)
  | .derive => (0xFFFFFFFF, 0x00000001)
  | .execUop => (0xFFFFFFFF, 0x00000002)

/-- An assembled word under a mask, field by field. -/
theorem uopWord_and {opc imm : Nat} (rd ra rb : FReg) (ho : opc < 2 ^ 8) (hi : imm < 2 ^ 12)
    (m8 : BitVec 8) (m20 m16 m12 : BitVec 4) (m0 : BitVec 12) :
    uopWord opc rd ra rb imm &&& (m8 ++ (m20 ++ (m16 ++ (m12 ++ m0)))) =
      (BitVec.ofNat 8 opc &&& m8) ++ ((BitVec.ofNat 4 rd.val &&& m20) ++ ((BitVec.ofNat 4 ra.val &&& m16) ++
        ((BitVec.ofNat 4 rb.val &&& m12) ++ (BitVec.ofNat 12 imm &&& m0)))) := by
  rw [uopWord_eq_append rd ra rb ho hi]
  have h : ∀ {m n : Nat} (a b : BitVec m) (c d : BitVec n), (a ++ c) &&& (b ++ d) = (a &&& b) ++ (c &&& d) := by
    intro m n a b c d
    apply BitVec.eq_of_getLsbD_eq
    intro i _
    simp only [BitVec.getLsbD_and, BitVec.getLsbD_append]
    split <;> rfl
  simp only [h]

/-- The bits a form uses vanish under its row's mask and the others are the row's match. -/
abbrev TableRow.Statement (i : Instr) : Prop := encode i &&& (tableRow i).1 = (tableRow i).2

theorem TableRow.fadd (rd ra rb : FReg) : TableRow.Statement (.fadd rd ra rb) := by
  refine (uopWord_and rd ra rb (by decide) (by decide) 0xFF 0#4 0#4 0#4 0xFFF#12).trans ?_; simp only [BitVec.and_zero]; rfl

theorem TableRow.fsub (rd ra rb : FReg) : TableRow.Statement (.fsub rd ra rb) := by
  refine (uopWord_and rd ra rb (by decide) (by decide) 0xFF 0#4 0#4 0#4 0xFFF#12).trans ?_; simp only [BitVec.and_zero]; rfl

theorem TableRow.fmul (rd ra rb : FReg) : TableRow.Statement (.fmul rd ra rb) := by
  refine (uopWord_and rd ra rb (by decide) (by decide) 0xFF 0#4 0#4 0#4 0xFFF#12).trans ?_; simp only [BitVec.and_zero]; rfl

theorem TableRow.fsqr (rd ra : FReg) (count : BitVec 12) : TableRow.Statement (.fsqr rd ra count) := by
  refine (uopWord_and rd ra 0 (by decide) count.isLt 0xFF 0#4 0#4 0xF#4 0#12).trans ?_; simp only [BitVec.and_zero]; rfl

theorem TableRow.fmula24 (rd ra : FReg) : TableRow.Statement (.fmula24 rd ra) := by
  refine (uopWord_and rd ra 0 (by decide) (by decide) 0xFF 0#4 0#4 0xF#4 0xFFF#12).trans ?_; simp only [BitVec.and_zero]; rfl

theorem TableRow.fmov (rd ra : FReg) : TableRow.Statement (.fmov rd ra) := by
  refine (uopWord_and rd ra 0 (by decide) (by decide) 0xFF 0#4 0#4 0xF#4 0xFFF#12).trans ?_; simp only [BitVec.and_zero]; rfl

theorem TableRow.fseti (rd : FReg) (imm : BitVec 12) : TableRow.Statement (.fseti rd imm) := by
  refine (uopWord_and rd 0 0 (by decide) imm.isLt 0xFF 0#4 0xF#4 0xF#4 0#12).trans ?_; simp only [BitVec.and_zero]; rfl

theorem TableRow.cswap (ra rb : FReg) (bit : BitVec 8) : TableRow.Statement (.cswap ra rb bit) := by
  have hb : bit.toNat < 2 ^ 12 := Nat.lt_trans bit.isLt (by decide)
  refine (uopWord_and 0 ra rb (by decide) hb 0xFF 0xF#4 0#4 0#4 0xF00#12).trans ?_
  have hz : BitVec.ofNat 12 bit.toNat &&& 0xF00#12 = 0#12 := by
    apply BitVec.eq_of_getLsbD_eq
    intro i hi
    have hm : i < 8 → (0xF00#12).getLsbD i = false := by clear hi; revert i; decide
    by_cases h : i < 8
    · simp [hm h]
    · simp [BitVec.getLsbD_of_ge bit i (Nat.le_of_not_lt h)]
  rw [hz]; simp only [BitVec.and_zero]; rfl

theorem TableRow.kload : TableRow.Statement .kload := by decide

theorem TableRow.fload (rd : FReg) : TableRow.Statement (.fload rd) := by
  refine (uopWord_and rd 0 0 (by decide) (by decide) 0xFF 0#4 0xF#4 0xF#4 0xFFF#12).trans ?_; simp only [BitVec.and_zero]; rfl

theorem TableRow.fstore (ra : FReg) : TableRow.Statement (.fstore ra) := by
  refine (uopWord_and 0 ra 0 (by decide) (by decide) 0xFF 0xF#4 0#4 0xF#4 0xFFF#12).trans ?_; simp only [BitVec.and_zero]; rfl

theorem TableRow.finv (rd ra : FReg) : TableRow.Statement (.finv rd ra) := by
  refine (uopWord_and rd ra 0 (by decide) (by decide) 0xFF 0#4 0#4 0xF#4 0xFFF#12).trans ?_; simp only [BitVec.and_zero]; rfl

theorem TableRow.lstep : TableRow.Statement .lstep := by decide

theorem TableRow.smul : TableRow.Statement .smul := by decide

theorem TableRow.wipe : TableRow.Statement .wipe := by decide

theorem TableRow.derive : TableRow.Statement .derive := by decide

theorem TableRow.execUop : TableRow.Statement .execUop := by decide

end Sys2Proof.Laws
end

