-- ==== Sys2Proof/Laws/Prime.lean ====
section
/-! SUPPORT. p = 2^255 − 19 is prime, so that Fermat's little theorem applies to it (R201). -/

namespace Sys2Proof

open Sys2Proof.Machine

/-- `a ^ e % n` by repeated squaring, for an exponent of at most `bits` bits. -/
def powMod (n : Nat) : Nat → Nat → Nat → Nat
  | 0, _, _ => 1 % n
  | bits + 1, a, e =>
    evalNat (a * a % n) fun square => evalNat (e / 2) fun half =>
      (if e % 2 = 1 then a else 1) * powMod n bits square half % n

theorem powMod_eq (n bits a e : Nat) (h : e < 2 ^ bits) : powMod n bits a e = a ^ e % n := by
  induction bits generalizing a e with
  | zero => obtain rfl : e = 0 := by omega
            rfl
  | succ bits ih =>
    have hpow : a ^ e = a ^ (e % 2) * (a * a) ^ (e / 2) := by
      rw [← pow_two, ← pow_mul, ← pow_add, Nat.mod_add_div]
    rw [powMod, evalNat_eq, evalNat_eq, ih _ _ (by omega), ← Nat.pow_mod, Nat.mul_mod_mod, hpow]
    rcases Nat.mod_two_eq_zero_or_one e with h2 | h2 <;> simp [h2]

/-- Lucas's test of n on the prime factors `fs` of n − 1, with repeats: `a` has order n − 1 modulo n. -/
def lucasTest (n a : Nat) (fs : List Nat) : Bool :=
  1 < n && n ≤ 2 ^ 256 && fs.prod == n - 1 && powMod n 256 a (n - 1) == 1 &&
    fs.all fun q => powMod n 256 a ((n - 1) / q) != 1

theorem prime_of_lucasTest {n a : Nat} {fs : List Nat} (h : lucasTest n a fs = true) (hfs : ∀ q ∈ fs, q.Prime) :
    n.Prime := by
  simp only [lucasTest, Bool.and_eq_true, decide_eq_true_eq, beq_iff_eq, List.all_eq_true, bne_iff_ne] at h
  obtain ⟨⟨⟨⟨hn, hle⟩, hprod⟩, hone⟩, hne⟩ := h
  have key : ∀ e, e ≤ n - 1 → ((a : ZMod n) ^ e = 1 ↔ powMod n 256 a e = 1) := fun e he => by
    have hc := ZMod.natCast_eq_natCast_iff' (a ^ e) 1 n
    rwa [Nat.cast_pow, Nat.cast_one, Nat.mod_eq_of_lt hn, ← powMod_eq n 256 a e (by omega)] at hc
  refine lucas_primality n (a : ZMod n) ((key _ le_rfl).2 hone) fun q hq hd => ?_
  rw [← hprod] at hd
  obtain ⟨r, hr, hqr⟩ := (Nat.Prime.prime hq).dvd_prod_iff.1 hd
  obtain rfl := (Nat.prime_dvd_prime_iff_eq hq (hfs r hr)).1 hqr
  exact fun hp => hne q hr ((key _ (Nat.div_le_self _ _)).1 hp)

theorem prime_2773320623 :
    Nat.Prime 2773320623 :=
  prime_of_lucasTest (a := 5)
    (fs := [2, 2437, 569003])
    (by decide +kernel) (by
      simp only [List.forall_mem_cons]
      exact ⟨by norm_num, by norm_num, by norm_num, List.forall_mem_nil _⟩)

theorem prime_72106336199 :
    Nat.Prime 72106336199 :=
  prime_of_lucasTest (a := 7)
    (fs := [2, 13, 2773320623])
    (by decide +kernel) (by
      simp only [List.forall_mem_cons]
      exact ⟨by norm_num, by norm_num, prime_2773320623, List.forall_mem_nil _⟩)

theorem prime_1919519569386763 :
    Nat.Prime 1919519569386763 :=
  prime_of_lucasTest (a := 2)
    (fs := [2, 3, 7, 19, 47, 47, 127, 8574133])
    (by decide +kernel) (by
      simp only [List.forall_mem_cons]
      exact ⟨by norm_num, by norm_num, by norm_num, by norm_num, by norm_num, by norm_num, by norm_num, by norm_num,
        List.forall_mem_nil _⟩)

theorem prime_75445702479781427272750846543864801 :
    Nat.Prime 75445702479781427272750846543864801 :=
  prime_of_lucasTest (a := 7)
    (fs := [2, 2, 2, 2, 2, 3, 3, 5, 5, 75707, 72106336199, 1919519569386763])
    (by decide +kernel) (by
      simp only [List.forall_mem_cons]
      exact ⟨by norm_num, by norm_num, by norm_num, by norm_num, by norm_num, by norm_num, by norm_num, by norm_num,
        by norm_num, by norm_num, prime_72106336199, prime_1919519569386763, List.forall_mem_nil _⟩)

theorem prime_31757755568855353 :
    Nat.Prime 31757755568855353 :=
  prime_of_lucasTest (a := 10)
    (fs := [2, 2, 2, 3, 31, 107, 223, 4153, 430751])
    (by decide +kernel) (by
      simp only [List.forall_mem_cons]
      exact ⟨by norm_num, by norm_num, by norm_num, by norm_num, by norm_num, by norm_num, by norm_num, by norm_num,
        by norm_num, List.forall_mem_nil _⟩)

theorem prime_74058212732561358302231226437062788676166966415465897661863160754340907 :
    Nat.Prime 74058212732561358302231226437062788676166966415465897661863160754340907 :=
  prime_of_lucasTest (a := 2)
    (fs := [2, 3, 353, 57467, 132049, 1923133, 31757755568855353, 75445702479781427272750846543864801])
    (by decide +kernel) (by
      simp only [List.forall_mem_cons]
      exact ⟨by norm_num, by norm_num, by norm_num, by norm_num, by norm_num, by norm_num, prime_31757755568855353,
        prime_75445702479781427272750846543864801, List.forall_mem_nil _⟩)

theorem fieldPrime_prime :
    Nat.Prime fieldPrime :=
  prime_of_lucasTest (a := 2)
    (fs := [2, 2, 3, 65147, 74058212732561358302231226437062788676166966415465897661863160754340907])
    (by decide +kernel) (by
      simp only [List.forall_mem_cons]
      exact ⟨by norm_num, by norm_num, by norm_num, by norm_num,
        prime_74058212732561358302231226437062788676166966415465897661863160754340907, List.forall_mem_nil _⟩)

end Sys2Proof
end

