-- ==== Sys2Proof/Machine/Assembler.lean ====
section
/-! DEFINITION. The assembler's notation: mnemonics and operands, the pseudo-instructions, and the host's `exec`
(R89, R90). -/

namespace Sys2Proof.Machine

/-- A register's name, f0 to f15 (R89). -/
def regName (r : FReg) : String := "f" ++ Nat.repr r.val

/-- A mnemonic and its operands, separated by commas, destination first (R89). -/
def asmLine (mnemonic : String) (operands : List String) : String :=
  match operands with
  | [] => mnemonic
  | o :: os => mnemonic ++ " " ++ os.foldl (fun acc x => acc ++ ", " ++ x) o

/-- An instruction in assembler syntax, immediates in decimal (R89). EXEC_UOP stands alone as `exec`, its micro-op
being in UOP. -/
def assembly : Instr → String
  | .fadd rd ra rb => asmLine "fadd" [regName rd, regName ra, regName rb]
  | .fsub rd ra rb => asmLine "fsub" [regName rd, regName ra, regName rb]
  | .fmul rd ra rb => asmLine "fmul" [regName rd, regName ra, regName rb]
  | .fsqr rd ra count => asmLine "fsqr" [regName rd, regName ra, Nat.repr count.toNat]
  | .fmula24 rd ra => asmLine "fmula24" [regName rd, regName ra]
  | .fmov rd ra => asmLine "fmov" [regName rd, regName ra]
  | .fseti rd imm => asmLine "fseti" [regName rd, Nat.repr imm.toNat]
  | .cswap ra rb bit => asmLine "cswap" [regName ra, regName rb, Nat.repr bit.toNat]
  | .kload => "kload"
  | .fload rd => asmLine "fload" [regName rd]
  | .fstore ra => asmLine "fstore" [regName ra]
  | .finv rd ra => asmLine "finv" [regName rd, regName ra]
  | .lstep => "lstep"
  | .smul => "smul"
  | .wipe => "wipe"
  | .derive => "derive"
  | .execUop => "exec"

/-! ### Pseudo-instructions, each one micro-op (R90) -/

/-- `fsq fd, fa`. -/
def pseudoFsq (rd ra : FReg) : Instr := .fsqr rd ra 1

/-- `fzero fd`. -/
def pseudoFzero (rd : FReg) : Instr := .fseti rd 0

/-- `fone fd`. -/
def pseudoFone (rd : FReg) : Instr := .fseti rd 1

/-- `fdbl fd, fa`. -/
def pseudoFdbl (rd ra : FReg) : Instr := .fadd rd ra ra

/-- `nop`. -/
def pseudoNop : Instr := .fmov 0 0

/-! ### Host commands -/

/-- `exec <micro-op>`: the micro-op's word to UOP, then 0x00000002 to CMD (R89). -/
def execInputs (i : Instr) : List Input := [memWrite 0x0C (encode i), memWrite 0x04 0x00000002]

/-- `derive`: 0x00000001 to CMD (R89). -/
def deriveCommand : Input := memWrite 0x04 0x00000001

/-- What the host does after completion: STATUS read, the eight RESULT words read, DONE cleared (R227). -/
def readBackInputs : List Input := memRead 0x08 :: burstReads 0x60 8 ++ [memWrite 0x08 0x00000002]

end Sys2Proof.Machine
end

