-- ==== Sys2Proof/Tests/Slice0.lean ====
section
/-! SUPPORT. Tests: expected results from spec/95_test_vectors.md and the rules' examples, and one witness for each
statement with hypotheses. -/

namespace Sys2Proof.Tests

open Sys2Proof.Machine

/-! ### Helpers -/

/-- The next state of a step, if it answers one. -/
def nextOf (o : Result) : Option State :=
  match o with
  | .next s => some s
  | .fault _ => none
  | .refused _ => none

/-- Reset with these field registers. -/
def withRegs (l : List (FReg × Limbs)) : State := l.foldl (fun s p => writeF s p.1 (limbsReg p.2)) State.reset

/-- Five equal limbs. -/
def all (n : Nat) : Limbs := ⟨n, n, n, n, n⟩

/-- F[r] after an instruction. -/
def after (i : Instr) (s : State) (r : FReg) : Option Limbs := (nextOf (exec i s)).map fun t => fieldOf t r

/-- The number 9 as a field value. -/
def nine : Limbs := ⟨9, 0, 0, 0, 0⟩

/-! ### WellFormed refuses (R85, R87) -/

theorem test_wf_refuses_fsqr_count_zero : (Instr.fsqr 1 1 0).wellFormed = false := by decide
theorem test_wf_refuses_cswap_odd_ra : (Instr.cswap 1 2 254).wellFormed = false := by decide
theorem test_wf_refuses_cswap_odd_rb : (Instr.cswap 0 3 254).wellFormed = false := by decide

/-! ### Decoding, words from 95_test_vectors.md L2 and R82, every constructor -/

theorem test_decode_arith :
    decodeTableWord 32 0x01312000 = some (.fadd 3 1 2) ∧ decodeTableWord 32 0x02312000 = some (.fsub 3 1 2) ∧
    decodeTableWord 32 0x03312000 = some (.fmul 3 1 2) ∧ decodeTableWord 32 0x04110FFF = some (.fsqr 1 1 4095) ∧
    decodeTableWord 32 0x05980000 = some (.fmula24 9 8) := by decide

theorem test_decode_register_file :
    decodeTableWord 32 0x06A40000 = some (.fmov 10 4) ∧ decodeTableWord 32 0x07100000 = some (.fseti 1 0) ∧
    decodeTableWord 32 0x09000000 = some .kload ∧ decodeTableWord 32 0x0A400000 = some (.fload 4) ∧
    decodeTableWord 32 0x0B040000 = some (.fstore 4) ∧ decodeTableWord 32 0x0F000000 = some .wipe := by decide

theorem test_decode_ladder_and_inverse :
    decodeTableWord 32 0x080020FE = some (.cswap 0 2 254) ∧ decodeTableWord 32 0x0D000000 = some .lstep ∧
    decodeTableWord 32 0x0E000000 = some .smul ∧ decodeTableWord 32 0x0C210000 = some (.finv 2 1) := by decide

theorem test_decode_commands :
    decodeTableWord 32 0x00000001 = some .derive ∧ decodeTableWord 32 0x00000002 = some .execUop ∧
    decodeTableWord 32 0x00000003 = none ∧ decodeTableWord 32 0x00000012 = none := by decide

/-- The decode-error table of 95_test_vectors.md L2. -/
theorem test_decode_errors :
    [0x00000000, 0x10000000, 0x00FFFFFF, 0x01312001, 0x04111000, 0x04110000, 0x080120FE].map (fun w : Nat =>
      (nextOf (step (State.reset.withFetchWord 32 w))).map statusWord) =
    [some 0x26, some 0x26, some 0x26, some 0x36, some 0x36, some 0x46, some 0x46] := by decide

/-! ### Instructions -/

theorem test_fadd_largest_in_bound :
    after (.fadd 2 2 2) (withRegs [(2, all (2 ^ 54 - 1))]) 2 = some (all 0x7ffffffffffffe) := by decide

theorem test_fsub_three_minus_five :
    after (.fsub 3 1 2) (withRegs [(1, ⟨3, 0, 0, 0, 0⟩), (2, ⟨5, 0, 0, 0, 0⟩)]) 3 =
      some ⟨0x3fffffffffff66, 0x3ffffffffffff8, 0x3ffffffffffff8, 0x3ffffffffffff8, 0x3ffffffffffff8⟩ := by decide

theorem test_fsub_two_operand_form :
    after (.fsub 2 1 2) (withRegs [(1, ⟨7, 0, 0, 0, 0⟩), (2, subBias)]) 2 = some ⟨7, 0, 0, 0, 0⟩ := by decide

theorem test_fmul_bound_edge :
    after (.fmul 3 1 2) (withRegs [(1, all (2 ^ 55 - 1)), (2, all (2 ^ 55 - 1))]) 3 =
      some ⟨0x1a96d, 0x559b, 0x45c9, 0x35f7, 0x2625⟩ := by decide

theorem test_fmul_top_bit_folds :
    after (.fmul 1 1 2) (withRegs [(1, expand (2 ^ 254)), (2, expand 2)]) 1 = some ⟨0x13, 0, 0, 0, 0⟩ := by decide

theorem test_fsqr_three_to_the_32 :
    after (.fsqr 6 2 5) (withRegs [(2, expand 3)]) 6 = some ⟨0x6954fe21e3e81, 0, 0, 0, 0⟩ := by decide

theorem test_fmula24_full_limbs :
    after (.fmula24 9 8) (withRegs [(8, all mask51)]) 9 =
      some ⟨0x8000000216a7f, mask51, mask51, mask51, mask51⟩ := by decide

theorem test_fmov_copies : after (.fmov 10 4) (withRegs [(4, ⟨1, 2, 3, 4, 5⟩)]) 10 = some ⟨1, 2, 3, 4, 5⟩ := by decide

theorem test_fseti_largest : after (.fseti 0 4095) (withRegs [(0, all 7)]) 0 = some ⟨0xfff, 0, 0, 0, 0⟩ := by decide

/-- V7: POINT = 2^200 + 12345. -/
theorem test_fload_offsets :
    after (.fload 1) { State.reset with point := toLE32 (2 ^ 200 + 12345) } 1 =
      some ⟨0x3039, 0, 0, 0x800000000000, 0⟩ := by decide

theorem test_fload_drops_bit_255 :
    after (.fload 1) { State.reset with point := toLE32 (2 ^ 255 + 0x25) } 1 = some ⟨0x25, 0, 0, 0, 0⟩ := by decide

/-- [2^64 − 1] × 5 gives bytes ff5f02000000f8ff00000000c0ff0700 000000fe3f00000000f0ff0100000000. -/
theorem test_fstore_any_pattern :
    (nextOf (exec (.fstore 0) (withRegs [(0, all (2 ^ 64 - 1))]))).map (fun t => t.result.toList) =
      some [0x00025fff, 0xfff80000, 0x00000000, 0x0007ffc0, 0xfe000000, 0x0000003f, 0x01fff000, 0x00000000] := by decide

theorem test_fstore_p_plus_one :
    (nextOf (exec (.fstore 3) (withRegs [(3, ⟨0x7ffffffffffee, mask51, mask51, mask51, mask51⟩)]))).map
      (fun t => bufferVal t.result) = some 1 := by decide

/-- V1: bytes f8, ff × 30, 7f and 00 × 31, 40. -/
theorem test_kload_clamps :
    (nextOf (exec .kload { State.reset with secret := Vector.replicate 8 0xFFFFFFFF })).map (fun t => t.k.toNat) =
      some (2 ^ 255 - 8) ∧
    (nextOf (exec .kload State.reset)).map (fun t => t.k.toNat) = some (2 ^ 254) := by decide

theorem test_wipe_keeps_buffers :
    (nextOf (exec .wipe { withRegs [(15, nine)] with k := 5, secret := toLE32 3, result := toLE32 4 })).map
      (fun t => (fieldOf t 15, t.k, bufferVal t.secret, bufferVal t.result)) = some (all 0, 0, 3, 4) := by decide

/-- The L2 CSWAP setup. -/
def swapState (k : BitVec 256) : State :=
  { withRegs [(0, ⟨1, 2, 3, 4, 5⟩), (1, ⟨1, 0, 0, 0, 0⟩), (2, ⟨6, 7, 8, 9, 10⟩), (3, ⟨2, 0, 0, 0, 0⟩)] with k := k }

theorem test_cswap_bit_one :
    (nextOf (exec (.cswap 0 2 254) (swapState (BitVec.ofNat 256 (2 ^ 254))))).map readPoints =
      some ⟨⟨6, 7, 8, 9, 10⟩, ⟨2, 0, 0, 0, 0⟩, ⟨1, 2, 3, 4, 5⟩, ⟨1, 0, 0, 0, 0⟩⟩ := by decide

theorem test_cswap_bit_zero :
    (nextOf (exec (.cswap 0 2 0) (swapState (BitVec.ofNat 256 (2 ^ 254))))).map readPoints = some (readPoints (swapState 0)) := by decide

/-- L2 LSTEP case B: doubling the generator. -/
theorem test_lstep_doubles_generator :
    (nextOf (exec .lstep (withRegs [(0, nine), (1, expand 1), (2, expand 1), (3, expand 0), (4, nine)]))).map
      readPoints =
      some ⟨⟨0x1900, 0, 0, 0, 0⟩, ⟨0x966070d, 0, 0x8000000000000, mask51, mask51⟩,
        ⟨0x131, 0, 0x8000000000000, mask51, mask51⟩, ⟨0x11, 0, 0x8000000000000, mask51, mask51⟩⟩ := by decide

/-- L2 FINV: 9⁻¹. -/
theorem test_finv_nine :
    after (.finv 5 1) (withRegs [(1, nine)]) 5 =
      some ⟨0x471c71c71c712, 0x38e38e38e38e3, 0x471c71c71c71c, 0x38e38e38e38e3, 0x471c71c71c71c⟩ := by
  decide +kernel

/-- SMUL outside its precondition answers a next state too (R222). -/
theorem test_smul_out_of_bound_completes :
    (nextOf (exec .smul (withRegs [(4, all (2 ^ 54))]))).map (fun t => (fieldOf t 4, t.busy)) =
      some (all (2 ^ 54), false) := by decide

/-- RFC 7748 §6.1, Alice's public key (V9): DERIVE through SMUL, FINV, FMUL, FSTORE and WIPE. -/
theorem test_derive_rfc7748_alice :
    (nextOf (exec .derive { State.reset with
      secret := #v[0x0A6D0777, 0x7DA51873, 0x72C1163C, 0x4566B251, 0x872F4CDF, 0x2A99C0EB, 0xA5FB77B1, 0x2A2CB91D],
      point := toLE32 9 })).map (fun t => (t.result.toList, statusWord t)) =
    some ([0x09F02085, 0x54A73089, 0xDC7D8B74, 0x5AF73EB4, 0x0D3ABF0D, 0xF41A3826, 0x8EA9A4EB, 0x6A4E9BAA], 2) := by
  decide +kernel

/-- R222's example: fseti f0, 1 through EXEC_UOP. -/
theorem test_exec_uop_example :
    (nextOf (exec .execUop { State.reset with busy := true, latchCmd := 2, latchUop := 0x07000001 })).map
      (fun t => (fieldOf t 0, statusWord t)) = some (⟨1, 0, 0, 0, 0⟩, 0x02) := by decide

/-- P5 step 3: a CMD write while BUSY is filtered and sets OVR; STATUS reads 0x09. -/
theorem test_write_while_busy :
    (nextOf (step { State.reset with busy := true, inputs := [memWrite 0x04 1] })).map
      (fun t => (statusWord t, t.latchCmd)) = some (0x09, 0) := by decide

/-- P1: RESULT reads 0 while BUSY. -/
theorem test_result_hidden_while_busy :
    (nextOf (step { State.reset with busy := true, result := toLE32 7, inputs := [memRead 0x60] })).map
      (fun t => t.response) = some (.data 0) := by decide

/-- R50, R51: a write burst that runs past 0x7C leaves the window; it does not come back to ID and CMD. -/
theorem test_burst_leaves_window :
    burstWrites 0x7C [5, 1, 1] = [memWrite 0x7C 5, singleAccess .outside (.write 1), singleAccess .outside (.write 1)] := by
  decide

/-- R51: a read burst is its reads in address order. -/
theorem test_read_burst : burstReads 0x60 3 = [memRead 0x60, memRead 0x64, memRead 0x68] := by decide

/-- R89 and R90: notation and pseudo-instructions. -/
theorem test_assembly :
    assembly (.cswap 0 2 254) = "cswap f0, f2, 254" ∧ assembly .kload = "kload" ∧
    assembly (.fsqr 1 15 4095) = "fsqr f1, f15, 4095" ∧ encode pseudoNop = 0x06000000 ∧
    encode (pseudoFsq 4 3) = 0x04430001 := by decide

/-- `nop` changes no state (R90, R145). -/
theorem test_nop (s : State) : exec pseudoNop s = .next s := congrArg Host.Outcome.next (writeF_readF s 0)

/-! ### Witnesses: states and operands that meet a statement's hypotheses -/

theorem witness_DecodeOfEncodeIsInstr :
    (Instr.fsqr 15 15 4095).wellFormed = true ∧ isUop (.fsqr 15 15 4095) = true ∧
    (Instr.cswap 14 14 255).wellFormed = true ∧ Instr.derive.wellFormed = true ∧ isUop .derive = false := by decide

theorem witness_EncodeOfDecodeIsWord :
    decodeUop 0x080020FE = .ok (.cswap 0 2 254) ∧ decodeCmd 0x00000002 = .ok .execUop := by decide

theorem witness_FaddAddsLimbwise :
    AddInBound (fieldOf (withRegs [(2, all (2 ^ 54 - 1))]) 2) (fieldOf (withRegs [(2, all (2 ^ 54 - 1))]) 2) := by
  decide

theorem witness_FsubSubtractsWithBias :
    SubInBound (fieldOf (withRegs [(1, all (2 ^ 54 - 1)), (2, subBias)]) 1)
      (fieldOf (withRegs [(1, all (2 ^ 54 - 1)), (2, subBias)]) 2) := by decide

/-- For FmulMultipliesInBound, FmulA24MultipliesBy121665, FinvRaisesToPMinusTwo and FinvEqualsItsMicroOpSequence. -/
theorem witness_FmulMultipliesInBound : MulInBound (fieldOf (withRegs [(1, all (2 ^ 55 - 1))]) 1) := by decide

theorem witness_FsqrSquaresCountTimes :
    (4095#12 ≠ 0 ∧ 1#12 ≠ 0) ∧ MulInBound (fieldOf (withRegs [(1, all (2 ^ 55 - 1))]) 1) := by decide

/-- For FieldCongruenceLaws and DatapathWidthsSuffice, each clause at its bound. -/
theorem witness_FieldCongruenceLaws :
    AddInBound (all (2 ^ 54 - 1)) (all (2 ^ 54 - 1)) ∧ SubInBound (all (2 ^ 54 - 1)) subBias ∧
    MulInBound (all (2 ^ 55 - 1)) := by decide

theorem witness_OutOfBoundWritesOneDraw :
    (let s := withRegs [(1, all (2 ^ 54)), (2, all (2 ^ 54 - 7)), (3, all (2 ^ 55))]
     ¬ AddInBound (fieldOf s 1) (fieldOf s 0) ∧ ¬ SubInBound (fieldOf s 0) (fieldOf s 2) ∧
     ¬ (MulInBound (fieldOf s 0) ∧ MulInBound (fieldOf s 3)) ∧ (1#12 ≠ 0 ∧ ¬ MulInBound (fieldOf s 3))) := by decide

theorem witness_OutOfBoundLadderDrawsF0ToF3 :
    (let s := withRegs [(4, all (2 ^ 55))]
     ¬ StepInBound (readPoints s) (fieldOf s 4) ∧ ¬ PointInBound (fieldOf s 4)) ∧
    ¬ PointInBound (fieldOf (withRegs [(4, all (2 ^ 54 - 151))]) 4) := by decide

theorem witness_ContractPassesEqualRemainder : LimbsBelow (2 ^ 64) (all (2 ^ 64 - 1)) := by decide

theorem witness_ClampProperties : ∃ t, exec .kload State.reset = .next t := ⟨_, rfl⟩

theorem witness_CswapExchangesPoints :
    (0 : FReg).val % 2 = 0 ∧ (14 : FReg).val % 2 = 0 ∧
    (swapState (BitVec.ofNat 256 (2 ^ 254))).k.getLsbD (254#8).toNat = true ∧ (swapState (BitVec.ofNat 256 (2 ^ 254))).k.getLsbD (255#8).toNat = false := by
  decide

theorem witness_LstepComputesLadderFormulas :
    (let s := withRegs [(0, all (2 ^ 54 - 152)), (1, all (2 ^ 54 - 152)), (2, all (2 ^ 54 - 152)),
      (3, all (2 ^ 54 - 152)), (4, all (2 ^ 55 - 1))]
     StepInBound (readPoints s) (fieldOf s 4)) := by decide

/-- For SmulRunsTheLadder and SmulEqualsItsMicroOpSequence. -/
theorem witness_SmulRunsTheLadder : PointInBound (fieldOf (withRegs [(4, all (2 ^ 54 - 152))]) 4) := by decide

theorem witness_FinvRaisesToPMinusTwo_zero :
    MulInBound (fieldOf (withRegs [(1, subBias)]) 1) ∧ valOf (withRegs [(1, subBias)]) 1 % fieldPrime = 0 := by decide

theorem witness_FinvRaisesToPMinusTwo_nonzero :
    MulInBound (fieldOf (withRegs [(1, nine)]) 1) ∧ valOf (withRegs [(1, nine)]) 1 % fieldPrime ≠ 0 := by decide

theorem witness_DeriveIgnoresMaskedBits :
    (let s : State := { State.reset with secret := toLE32 7, point := toLE32 (2 ^ 255 + 9) }
     let t : State := { State.reset with secret := toLE32 (2 ^ 255), point := toLE32 9, k := 5 }
     clampScalar (BitVec.ofNat 256 (bufferVal s.secret)) = clampScalar (BitVec.ofNat 256 (bufferVal t.secret)) ∧
     bufferVal s.point % 2 ^ 255 = bufferVal t.point % 2 ^ 255) := by decide

theorem witness_DeriveIgnoresMaskedBits_completes (s : State) : ∃ s', exec .derive s = .next s' := ⟨_, rfl⟩

theorem witness_DeriveOfZeroPointIsZero :
    bufferVal (toLE32 fieldPrime) % 2 ^ 255 % fieldPrime = 0 ∧ bufferVal (toLE32 (2 ^ 255)) % 2 ^ 255 % fieldPrime = 0 := by
  decide

theorem witness_ExecUopRunsLatchedMicroOp :
    decodeUop ({ State.reset with latchUop := 0x0E000000 } : State).latchUop = .ok .smul := by decide

/-- A busy machine with these latched words whose engine's turn is next. -/
def busyWith (cmd uop : Word) : State :=
  { State.reset with busy := true, latchCmd := cmd, latchUop := uop, inputs := [.engine] }

/-- For CmdErrorChangesOnlyStatus, every error. -/
theorem witness_CmdErrorChangesOnlyStatus :
    (busyWith 2 0).busy = true ∧ (busyWith 2 0).inReset = false ∧ (busyWith 2 0).inputs = .engine :: [] ∧
    decodeCmd (busyWith 0 0).latchCmd = .error .badCmd ∧ decodeCmd (busyWith 2 0).latchCmd = .ok .execUop ∧
    decodeUop (busyWith 2 0).latchUop = .error .badOpcode ∧
    decodeUop (busyWith 2 0x0FFFFFFF).latchUop = .error .badField ∧
    decodeUop (busyWith 2 0x0800F000).latchUop = .error .badOperand := by decide

theorem witness_ErrorPriorityOnCompletion :
    ((busyWith 0 0).latchCmd.toNat ≠ 1 ∧ (busyWith 3 0).latchCmd.toNat ≠ 2) ∧
    (busyWith 2 0x04111000).latchCmd = 2 ∧ (busyWith 2 0x04111000).latchUop = 0x04111000 ∧
    (busyWith 2 0x00FFFFFF).latchUop = 0x00FFFFFF ∧ (busyWith 0x12 0).latchCmd = 0x12 := by decide

/-- For StepRunsDecodedInstruction and EngineTurnCompletesCommand. -/
theorem witness_StepRunsDecodedInstruction :
    (busyWith 1 0).busy = true ∧ (busyWith 1 0).inReset = false ∧ (busyWith 1 0).inputs = .engine :: [] ∧
    ({ busyWith 2 0 with inputs := [] } : State).inputs = [] ∧ decodeCmd (busyWith 1 0).latchCmd = .ok .derive ∧
    decodeCmd (busyWith 2 0x0F000000).latchCmd = .ok .execUop ∧
    decodeUop (busyWith 2 0x0F000000).latchUop = .ok .wipe := by decide

theorem witness_PlacedWordIsRunNext :
    decodeTableWord 32 1 = some .derive ∧ isUop .derive = false ∧ decodeTableWord 32 0x0F000000 = some .wipe ∧
    isUop .wipe = true ∧ decodeTableWord 8 2 = some .execUop := by decide

theorem witness_CmdWriteStartsCommand :
    (let s : State := { State.reset with inputs := [memWrite 0x04 0xFFFFFFFF] }
     s.busy = false ∧ s.inReset = false ∧ s.inputs = memWrite 0x04 0xFFFFFFFF :: []) := by decide

theorem witness_HostDriverSequenceDerives :
    (let s : State := { State.reset with inputs := deriveInputs (toLE32 1) (toLE32 9) ++ [] }
     s.busy = false ∧ s.inReset = false ∧ s.inputs = deriveInputs (toLE32 1) (toLE32 9) ++ []) := by decide

/-- Every clause of WriteWhileBusyFilter at the edges of its offsets. -/
theorem witness_WriteWhileBusyFilter :
    (∀ off ∈ ([0x04, 0x0C, 0x20, 0x5C, 0x08, 0x10, 0x00, 0x14, 0x1C, 0x60, 0x7C] : List (Fin 128)), off.val % 4 = 0 ∧
      ({ busyWith 1 0 with inputs := [memWrite off 5] } : State).inputs = memWrite off 5 :: []) ∧
    (busyWith 1 0).busy = true ∧ (busyWith 1 0).inReset = false := by decide

theorem witness_IdleWritesReachRegisters :
    (let s : State := { State.reset with inputs := [memWrite 0x5C 5] }
     s.busy = false ∧ s.inReset = false ∧ s.inputs = memWrite 0x5C 5 :: [] ∧
     (0x5C : Fin 128).val = 0x40 + 4 * (7 : Fin 8).val ∧ (0x20 : Fin 128).val = 0x20 + 4 * (0 : Fin 8).val ∧
     (0x3C : Fin 128).val = 0x20 + 4 * (7 : Fin 8).val) := by decide

/-- Every clause of ReadsAnswerAndChangeNothing at the edges of its offsets. -/
theorem witness_ReadsAnswerAndChangeNothing :
    (∀ off ∈ ([0x00, 0x04, 0x08, 0x0C, 0x10, 0x14, 0x1C, 0x20, 0x3C, 0x40, 0x5C, 0x60, 0x7C] : List (Fin 128)),
      off.val % 4 = 0 ∧ ({ State.reset with inputs := [memRead off] } : State).inputs = memRead off :: []) ∧
    State.reset.inReset = false ∧ (0x7C : Fin 128).val = 0x60 + 4 * (7 : Fin 8).val := by decide

theorem witness_RefusedAccessChangesNothing :
    (let a : HostAccess := ⟨.window 0x7E, 16, 0x3, .read⟩
     let s : State := { State.reset with inputs := [.host a] }
     s.inReset = false ∧ s.inputs = .host a :: [] ∧ a.target = .window 0x7E ∧ (0x7E : Fin 128).val % 4 ≠ 0 ∧
     a.width ≠ 32 ∧ a.strobes ≠ 0xF) := by decide

theorem witness_InterruptIsDoneAndEnabled :
    (let s : State := { busyWith 1 0 with doneIe := true }
     s.busy = true ∧ s.inReset = false ∧ s.doneIe = true ∧ s.inputs = .engine :: []) ∧
    (let s : State := { State.reset with inputs := [memWrite 0x08 2] }
     s.inReset = false ∧ s.inputs = memWrite 0x08 2 :: [] ∧ (2 : Word).getLsbD 1 = true) ∧
    (let s : State := { State.reset with inputs := [memWrite 0x10 1] }
     s.inReset = false ∧ s.inputs = memWrite 0x10 1 :: []) := by decide

theorem witness_ResetClearsEveryRegister :
    (let s : State := { busyWith 1 0 with inputs := [.resetAssert, .engine, .resetRelease] }
     s.inputs = .resetAssert :: [.engine, .resetRelease] ∧ s.inputs = .resetAssert :: .engine :: .resetRelease :: []) ∧
    (let s : State := { State.reset with inReset := true, inputs := [.engine] }
     s.inReset = true ∧ s.inputs = .engine :: []) ∧
    (let s : State := { State.reset with inReset := true }
     s.inReset = true ∧ s.inputs = []) ∧
    ({ State.reset with inReset := true, inputs := [.resetRelease] } : State).inputs = .resetRelease :: [] := by decide

theorem witness_StepKeepsInvariant : Inv (busyWith 2 0x07100007) ∧ ∃ t, step (busyWith 2 0x07100007) = .next t := by
  refine ⟨⟨by unfold StatusLegal; decide, .inl rfl, by unfold ResultCanonical; decide, by unfold ResetHolds; decide⟩,
    _, rfl⟩

theorem witness_ControlIsIndependentOfData :
    SameControl (busyWith 1 0) { busyWith 1 0 with secret := toLE32 5, point := toLE32 9, k := 8 } := by
  unfold SameControl; decide

theorem witness_HostReadsHideSecretFieldAndScalar :
    (let a : HostAccess := ⟨.window 0x20, 32, 0xF, .read⟩
     let s : State := { State.reset with inputs := [.host a] }
     let t : State := { s with secret := toLE32 5, k := 8, f := (withRegs [(1, nine)]).f }
     s.inputs = .host a :: [] ∧ t = { s with f := t.f, k := t.k, secret := t.secret } ∧
     (∃ s', step s = .next s') ∧ ∃ t', step t = .next t') := ⟨rfl, rfl, ⟨_, rfl⟩, _, rfl⟩

theorem witness_MicroOpsWriteOnlyTheirTargets :
    isUop (.fsqr 1 1 1) = true ∧ (Instr.fsqr 1 1 1).wellFormed = true ∧
    ∃ t, exec (.fsqr 1 1 1) State.reset = .next t := ⟨rfl, rfl, _, rfl⟩

theorem witness_OnlyCompletionChangesEngineState :
    ∃ t, step (busyWith 2 0x07100007) = .next t ∧ fieldOf t 1 ≠ fieldOf (busyWith 2 0x07100007) 1 :=
  ⟨_, rfl, by decide⟩

theorem witness_OnlyCompletionChangesEngineState_noInputs :
    ∃ t, step { busyWith 2 0x07100007 with inputs := [] } = .next t ∧
      fieldOf t 1 ≠ fieldOf { busyWith 2 0x07100007 with inputs := [] } 1 := ⟨_, rfl, by decide⟩

theorem witness_OnlyCompletionChangesEngineState_reset :
    ∃ t, step { busyWith 1 0 with k := 8, inputs := [.resetAssert] } = .next t ∧ t.k ≠ 8 := ⟨_, rfl, by decide⟩

/-- A host access to the window, and one outside it, while reset is asserted. -/
theorem witness_StepStopsOnlyOnAccessInReset :
    (let a : HostAccess := ⟨.window 0x00, 32, 0xF, .read⟩
     let s : State := { State.reset with inReset := true, inputs := [.host a] }
     s.inputs = .host a :: [] ∧ a.target = .window 0x00 ∧ s.inReset = true) := by decide

theorem witness_OutsideAccessChangesNothing :
    (let a : HostAccess := ⟨.outside, 8, 0x1, .write 1⟩
     let s : State := { busyWith 1 0 with inReset := true, inputs := [.host a] }
     s.inputs = .host a :: [] ∧ a.target = .outside) := by decide

/-- One witness for each flag of StickyFlagsFallOnlyAsStated. -/
theorem witness_StickyFlagsFallOnlyAsStated :
    (let s : State := { State.reset with done := true, ovr := true, inputs := [memWrite 0x08 0xA] }
     (nextOf (step s)).map (fun t => (t.done, t.ovr)) = some (false, false) ∧ s.done = true ∧ s.ovr = true) ∧
    (let s : State := { State.reset with err := true, errcode := 1, inputs := [memWrite 0x04 1] }
     (nextOf (step s)).map (fun t => t.err) = some false ∧ s.err = true ∧ s.busy = false) := by decide

end Sys2Proof.Tests
end

section
/-! PROOFS. What micro-ops, runs of them and the engine's turn can do, each said once. -/

namespace Sys2Proof.Machine

/-! ### Field registers and draws as a frame -/

/-- From `s` to `t` nothing changed but field registers in `dst` and the count of draws. -/
def ChangesFieldRegs (dst : List FReg) (s t : State) : Prop :=
  t = { s with f := t.f, oobDraws := t.oobDraws } ∧ ∀ r, r ∉ dst → readF t r = readF s r

theorem ChangesFieldRegs.trans {dst : List FReg} {s t u : State} (h : ChangesFieldRegs dst s t)
    (g : ChangesFieldRegs dst t u) : ChangesFieldRegs dst s u := by
  obtain ⟨ht, hr⟩ := h
  obtain ⟨hu, gr⟩ := g
  exact ⟨by rw [hu, ht], fun r hm => (gr r hm).trans (hr r hm)⟩

theorem writeF_changes {dst : List FReg} {r : FReg} (h : r ∈ dst) (s : State) (v : FieldReg) :
    ChangesFieldRegs dst s (writeF s r v) :=
  ⟨rfl, fun _ hq => readF_writeF_ne s v fun e => hq (e ▸ h)⟩

theorem writeOob_changes {dst : List FReg} {r : FReg} (h : r ∈ dst) (s : State) :
    ChangesFieldRegs dst s (writeOob s r) :=
  ⟨rfl, fun _ hq => readF_writeF_ne s _ fun e => hq (e ▸ h)⟩

/-- The form of every arithmetic micro-op: the result in bound, a draw out of bound (R111). -/
theorem boundedWrite_changes (c : Prop) [Decidable c] (s : State) (r : FReg) (v : FieldReg) :
    ChangesFieldRegs [r] s (if c then writeF s r v else writeOob s r) := by
  split
  · exact writeF_changes (by simp) s v
  · exact writeOob_changes (by simp) s

theorem swapPoints_changes (ra rb : FReg) (bit : Nat) (s : State) :
    ChangesFieldRegs [ra, pairZ ra, rb, pairZ rb] s (swapPoints ra rb bit s) :=
  (((writeF_changes (by simp) _ _).trans (writeF_changes (by simp) _ _)).trans
    (writeF_changes (by simp) _ _)).trans (writeF_changes (by simp) _ _)

/-- The form of LSTEP and SMUL: F0 to F3 hold the points in bound, draws out of bound (R171, R173). -/
theorem boundedWritePoints_changes (c : Prop) [Decidable c] (s : State) (p : PointPair) :
    ChangesFieldRegs [0, 1, 2, 3] s (if c then writePoints s p else writePointsOob s) := by
  split
  · exact (((writeF_changes (by simp) _ _).trans (writeF_changes (by simp) _ _)).trans
      (writeF_changes (by simp) _ _)).trans (writeF_changes (by simp) _ _)
  · exact (((writeOob_changes (by simp) _).trans (writeOob_changes (by simp) _)).trans
      (writeOob_changes (by simp) _)).trans (writeOob_changes (by simp) _)

/-! ### What a micro-op does -/

/-- Every well-formed micro-op completes, and but for KLOAD, WIPE and FSTORE it only changes the field registers its
form names. -/
theorem exec_uop_cases {i : Instr} (hu : isUop i = true) (hw : i.wellFormed = true) (s : State) :
    (∃ t, exec i s = .next t ∧ ChangesFieldRegs (destRegs i) s t) ∨
    (i = .kload ∧ exec i s = .next (writeK s (clampScalar (BitVec.ofNat 256 (bufferVal s.secret))))) ∨
    (i = .wipe ∧ exec i s = .next (writeK (clearF s) 0)) ∨
    (∃ ra, i = .fstore ra ∧
      exec i s = .next (writeResult s (toLE32 (limbsVal (fieldOf s ra) % fieldPrime)))) := by
  cases i with
  | fadd rd ra rb => exact .inl ⟨_, rfl, boundedWrite_changes _ s rd _⟩
  | fsub rd ra rb => exact .inl ⟨_, rfl, boundedWrite_changes _ s rd _⟩
  | fmul rd ra rb => exact .inl ⟨_, rfl, boundedWrite_changes _ s rd _⟩
  | fsqr rd ra count =>
    have hc : count ≠ 0 := by simpa [Instr.wellFormed] using hw
    exact .inl ⟨_, if_neg hc, boundedWrite_changes _ s rd _⟩
  | fmula24 rd ra => exact .inl ⟨_, rfl, boundedWrite_changes _ s rd _⟩
  | fmov rd ra => exact .inl ⟨_, rfl, writeF_changes (by simp [destRegs]) s _⟩
  | fseti rd imm => exact .inl ⟨_, rfl, writeF_changes (by simp [destRegs]) s _⟩
  | cswap ra rb bit => exact .inl ⟨_, if_pos hw, swapPoints_changes ra rb _ s⟩
  | kload => exact .inr (.inl ⟨rfl, rfl⟩)
  | fload rd => exact .inl ⟨_, rfl, writeF_changes (by simp [destRegs]) s _⟩
  | fstore ra => exact .inr (.inr (.inr ⟨ra, rfl, rfl⟩))
  | finv rd ra => exact .inl ⟨_, rfl, boundedWrite_changes _ s rd _⟩
  | lstep => exact .inl ⟨_, rfl, boundedWritePoints_changes _ s _⟩
  | smul => exact .inl ⟨_, rfl, boundedWritePoints_changes _ s _⟩
  | wipe => exact .inr (.inr (.inl ⟨rfl, rfl⟩))
  | derive => cases hu
  | execUop => cases hu

theorem isUop_of_uopOfOpcode {opc : Nat} {w : Word} {i : Instr} (h : uopOfOpcode opc w = some i) :
    isUop i = true := by
  unfold uopOfOpcode at h
  split at h <;> cases h <;> rfl

/-- What the micro-op decoder gives is a micro-op with its operands checked (R88). -/
theorem decodeUop_ok {w : Word} {i : Instr} (h : decodeUop w = .ok i) :
    isUop i = true ∧ i.wellFormed = true := by
  unfold decodeUop at h
  split at h
  · cases h
  · next j hj =>
    split at h
    · cases h
    · split at h
      · next hwf => cases h; exact ⟨isUop_of_uopOfOpcode hj, hwf⟩
      · cases h

/-! ### The clamp and RESULT -/

/-- The clamp bit by bit (R143). -/
theorem clampScalar_getLsbD (n : BitVec 256) (j : Nat) :
    (clampScalar n).getLsbD j = (decide (j = 254) || (n.getLsbD j && decide (3 ≤ j) && decide (j ≠ 255))) := by
  have hlow : Nat.testBit (2 ^ 0 + 2 ^ 1 + 2 ^ 2) j = decide (j < 3) := Nat.testBit_two_pow_sub_one 3 j
  by_cases hj : j < 256
  · simp only [clampScalar, BitVec.getLsbD_or, BitVec.getLsbD_and, BitVec.getLsbD_not, BitVec.getLsbD_ofNat, hlow,
      Nat.testBit_two_pow, hj]
    grind
  · simp [BitVec.getLsbD_of_ge _ j (Nat.le_of_not_lt hj)]
    omega

theorem clampScalar_legal (n : BitVec 256) :
    (clampScalar n).toNat % 8 = 0 ∧ 2 ^ 254 ≤ (clampScalar n).toNat ∧ (clampScalar n).toNat ≤ 2 ^ 255 - 8 := by
  have hbit := clampScalar_getLsbD n
  simp only [BitVec.getLsbD] at hbit
  have hmod : (clampScalar n).toNat % 2 ^ 3 = 0 := by
    apply Nat.eq_of_testBit_eq
    intro j
    rw [Nat.testBit_mod_two_pow, hbit, Nat.zero_testBit]
    grind
  have hge : 2 ^ 254 ≤ (clampScalar n).toNat := Nat.ge_two_pow_of_testBit (by simp [hbit])
  have hlt : (clampScalar n).toNat < 2 ^ 255 := by
    apply Nat.lt_pow_two_of_testBit
    intro j hj
    rw [hbit]
    by_cases h : j = 255
    · simp [h]
    · have := (clampScalar n).isLt
      have hn := BitVec.getLsbD_of_ge n j (by omega)
      rw [BitVec.getLsbD] at hn
      simp [hn]; omega
  omega

theorem toLE32_mod_fieldPrime (n : Nat) : bufferVal (toLE32 (n % fieldPrime)) < fieldPrime := by
  have h : n % fieldPrime < fieldPrime := Nat.mod_lt _ (by decide)
  rwa [bufferVal_toLE32 (h.trans (by decide))]

/-! ### Runs of micro-ops -/

/-- What a run of micro-ops may do: change F, K, RESULT and the count of draws, K and RESULT staying legal. -/
def MicroOpEffect (s t : State) : Prop :=
  t = { s with f := t.f, k := t.k, result := t.result, oobDraws := t.oobDraws } ∧
    (ScalarLegal s → ScalarLegal t) ∧ (ResultCanonical s → ResultCanonical t)

theorem MicroOpEffect.refl (s : State) : MicroOpEffect s s := ⟨rfl, id, id⟩

theorem MicroOpEffect.trans {s t u : State} (h : MicroOpEffect s t) (g : MicroOpEffect t u) : MicroOpEffect s u := by
  obtain ⟨ht, hk, hr⟩ := h
  obtain ⟨hu, gk, gr⟩ := g
  exact ⟨by rw [hu, ht], gk ∘ hk, gr ∘ hr⟩

theorem ChangesFieldRegs.microOpEffect {dst : List FReg} {s t : State} (h : ChangesFieldRegs dst s t) :
    MicroOpEffect s t := by
  obtain ⟨ht, -⟩ := h
  refine ⟨by rw [ht], fun hk => ?_, fun hr => ?_⟩
  · rw [ht]; exact hk
  · rw [ht]; exact hr

theorem exec_uop_effect {i : Instr} (hu : isUop i = true) (hw : i.wellFormed = true) (s : State) :
    ∃ t, exec i s = .next t ∧ MicroOpEffect s t := by
  rcases exec_uop_cases hu hw s with ⟨t, h, hc⟩ | ⟨-, h⟩ | ⟨-, h⟩ | ⟨ra, -, h⟩
  · exact ⟨t, h, hc.microOpEffect⟩
  · exact ⟨_, h, rfl, fun _ => .inr (clampScalar_legal _), id⟩
  · exact ⟨_, h, rfl, fun _ => .inl rfl, id⟩
  · exact ⟨_, h, rfl, id, fun _ => toLE32_mod_fieldPrime _⟩

theorem executeUop_effect {w : Word} {i : Instr} (h : decodeUop w = .ok i) (s : State) :
    ∃ t, executeUop i s = .next t ∧ MicroOpEffect s t := by
  obtain ⟨hu, hw⟩ := decodeUop_ok h
  rw [executeUop_eq_exec hu]
  exact exec_uop_effect hu hw s

theorem runRom_effect {ws : List Word} (h : ∀ w ∈ ws, ∃ i, decodeUop w = .ok i) (s : State) :
    ∃ t, runRom ws s = .next t ∧ MicroOpEffect s t := by
  induction ws generalizing s with
  | nil => exact ⟨s, rfl, .refl s⟩
  | cons w ws ih =>
    obtain ⟨⟨i, hi⟩, hws⟩ := List.forall_mem_cons.1 h
    obtain ⟨t, ht, et⟩ := executeUop_effect hi s
    obtain ⟨u, hu, eu⟩ := ih hws t
    exact ⟨u, by simp [runRom, hi, ht, hu], et.trans eu⟩

theorem deriveRom_decodes : ∀ w ∈ deriveRom, ∃ i, decodeUop w = .ok i := by
  simp only [deriveRom, List.forall_mem_cons]
  exact ⟨⟨_, rfl⟩, ⟨_, rfl⟩, ⟨_, rfl⟩, ⟨_, rfl⟩, ⟨_, rfl⟩, ⟨_, rfl⟩, ⟨_, rfl⟩, List.forall_mem_nil _⟩

/-! ### The engine's turn -/

/-- A command's completion: micro-ops ran, then it ended without error or with CmdError (R224, R240). -/
def CommandCompletes (s t : State) : Prop :=
  ∃ u, MicroOpEffect s u ∧ (t = finishCommand u ∨ ∃ c, t = takeCmdError c u)

theorem execDerive_completes (s : State) : ∃ t, execDerive s = .next t ∧ CommandCompletes s t := by
  obtain ⟨u, hu, eu⟩ := runRom_effect deriveRom_decodes s
  exact ⟨_, by rw [execDerive, hu, andThen_next], u, eu, .inl rfl⟩

theorem execExecUop_completes (s : State) : ∃ t, execExecUop s = .next t ∧ CommandCompletes s t := by
  unfold execExecUop
  split
  · next i hi =>
    obtain ⟨u, hu, eu⟩ := executeUop_effect hi s
    exact ⟨_, by rw [hu, andThen_next], u, eu, .inl rfl⟩
  · next c _ => exact ⟨_, rfl, s, .refl s, .inr ⟨c, rfl⟩⟩

theorem completeCommand_completes (s : State) :
    ∃ t, completeCommand exec s = .next t ∧ CommandCompletes s t := by
  unfold completeCommand
  split
  · next i hi =>
    rcases decodeCmd_ok hi with ⟨-, rfl⟩ | ⟨-, rfl⟩
    · exact execDerive_completes s
    · exact execExecUop_completes s
  · next c _ => exact ⟨_, rfl, s, .refl s, .inr ⟨c, rfl⟩⟩

/-- What the engine's turn answers: the completion of a running command out of reset, else nothing changes. -/
theorem engineTurn_cases (s : State) :
    (s.busy = true ∧ s.inReset = false ∧ ∃ t, engineTurn exec s = .next t ∧ CommandCompletes s t) ∨
    ((s.busy = false ∨ s.inReset = true) ∧ engineTurn exec s = .next s) := by
  by_cases h : s.busy = false ∨ s.inReset = true
  · exact .inr ⟨h, engineTurn_idle exec h⟩
  · have hb : s.busy = true := by simpa using fun e => h (.inl e)
    have hr : s.inReset = false := by simpa using fun e => h (.inr e)
    exact .inl ⟨hb, hr, by rw [engineTurn_busy exec hb hr]; exact completeCommand_completes s⟩

/-- STATUS, IRQ_EN and the reset line after a completion. -/
theorem CommandCompletes.status {s t : State} (h : CommandCompletes s t) :
    t.busy = false ∧ t.done = true ∧ t.ovr = s.ovr ∧ t.doneIe = s.doneIe ∧ t.inReset = s.inReset := by
  obtain ⟨u, ⟨hu, -, -⟩, rfl | ⟨c, rfl⟩⟩ := h <;> rw [hu] <;> exact ⟨rfl, rfl, rfl, rfl, rfl⟩

end Sys2Proof.Machine
end

section
/-! PROOFS. The host's accesses, what a step can do, and the invariant part by part. -/

namespace Sys2Proof.Machine

/-! ### The host's accesses -/

theorem accepted_iff (off : Fin 128) (a : HostAccess) :
    accepted off a = true ↔ off.val % 4 = 0 ∧ a.width = 32 ∧ a.strobes = 0xF := by
  simp [accepted, and_assoc]

/-- The only shape of an accepted write (R51). -/
theorem host_eq_memWrite {a : HostAccess} {off : Fin 128} {v : Word} (ht : a.target = .window off)
    (hacc : accepted off a = true) (hop : a.op = .write v) : Input.host a = memWrite off v := by
  obtain ⟨-, hw, hs⟩ := (accepted_iff off a).1 hacc
  obtain ⟨target, width, strobes, op⟩ := a
  subst ht hop hw hs
  rfl

theorem hostTurn_window {a : HostAccess} {off : Fin 128} {s : State} (ht : a.target = .window off)
    (hr : s.inReset = false) : hostTurn a s = .next (accessWindow off a s) := by
  simp [hostTurn, ht, hr]

theorem accessWindow_write {a : HostAccess} {off : Fin 128} {v : Word} (hacc : accepted off a = true)
    (hop : a.op = .write v) (s : State) :
    accessWindow off a s = respond (writeWindow (windowReg off) v s) .written := by
  simp [accessWindow, hacc, hop]

theorem accessWindow_read {a : HostAccess} {off : Fin 128} (hacc : accepted off a = true) (hop : a.op = .read)
    (s : State) : accessWindow off a s = respond s (.data (readWindow (windowReg off) s)) := by
  simp [accessWindow, hacc, hop]

/-- A step that takes an accepted write. -/
theorem step_memWrite {s : State} {off : Fin 128} {v : Word} {rest : List Input} (hr : s.inReset = false)
    (hoff : off.val % 4 = 0) (h : s.inputs = memWrite off v :: rest) :
    step s = .next (respond (writeWindow (windowReg off) v (takeInput s rest)) .written) := by
  rw [step_host h, hostTurn_window (s := takeInput s rest) rfl hr,
    accessWindow_write ((accepted_iff _ _).2 ⟨hoff, rfl, rfl⟩) rfl]

/-- A step that takes an accepted read. -/
theorem step_memRead {s : State} {off : Fin 128} {rest : List Input} (hr : s.inReset = false)
    (hoff : off.val % 4 = 0) (h : s.inputs = memRead off :: rest) :
    step s = .next (respond (takeInput s rest) (.data (readWindow (windowReg off) (takeInput s rest)))) := by
  rw [step_host h, hostTurn_window (s := takeInput s rest) rfl hr,
    accessWindow_read ((accepted_iff _ _).2 ⟨hoff, rfl, rfl⟩) rfl]

/-! ### The window's map (R24) -/

section windowMap

variable {off : Fin 128}

theorem windowReg_id (h : off.val = 0x00) : windowReg off = .id := by simp [windowReg, h]
theorem windowReg_cmd (h : off.val = 0x04) : windowReg off = .cmd := by simp [windowReg, h]
theorem windowReg_status (h : off.val = 0x08) : windowReg off = .status := by simp [windowReg, h]
theorem windowReg_uop (h : off.val = 0x0C) : windowReg off = .uop := by simp [windowReg, h]
theorem windowReg_irqEn (h : off.val = 0x10) : windowReg off = .irqEn := by simp [windowReg, h]

theorem windowReg_reserved (h : 0x14 ≤ off.val) (h' : off.val < 0x20) : windowReg off = .reserved := by
  simp only [windowReg]
  repeat rw [if_neg (by omega)]
  rw [if_pos h']

theorem windowReg_secret (h : 0x20 ≤ off.val) (h' : off.val < 0x40) :
    windowReg off = .secret (Fin.ofNat 8 ((off.val - 0x20) / 4)) := by
  simp only [windowReg]
  repeat rw [if_neg (by omega)]
  rw [if_pos h']

theorem windowReg_point (h : 0x40 ≤ off.val) (h' : off.val < 0x60) :
    windowReg off = .point (Fin.ofNat 8 ((off.val - 0x40) / 4)) := by
  simp only [windowReg]
  repeat rw [if_neg (by omega)]
  rw [if_pos h']

theorem windowReg_result (h : 0x60 ≤ off.val) :
    windowReg off = .result (Fin.ofNat 8 ((off.val - 0x60) / 4)) := by
  simp only [windowReg]
  repeat rw [if_neg (by omega)]

theorem ofNat_wordOffset (w : Fin 8) (base : Nat) : Fin.ofNat 8 ((base + 4 * w.val - base) / 4) = w := by
  apply Fin.ext
  simp only [Fin.val_ofNat]
  omega

theorem windowReg_secret_word {w : Fin 8} (h : off.val = 0x20 + 4 * w.val) : windowReg off = .secret w := by
  rw [windowReg_secret (by omega) (by omega), h, ofNat_wordOffset]

theorem windowReg_point_word {w : Fin 8} (h : off.val = 0x40 + 4 * w.val) : windowReg off = .point w := by
  rw [windowReg_point (by omega) (by omega), h, ofNat_wordOffset]

theorem windowReg_result_word {w : Fin 8} (h : off.val = 0x60 + 4 * w.val) : windowReg off = .result w := by
  rw [windowReg_result (by omega), h, ofNat_wordOffset]

theorem offset_of_windowReg_cmd (ha : off.val % 4 = 0) (h : windowReg off = .cmd) : off = 0x04 := by
  revert off; decide

theorem offset_of_windowReg_status (ha : off.val % 4 = 0) (h : windowReg off = .status) : off = 0x08 := by
  revert off; decide

end windowMap

/-! ### What a write does to a register (R25 to R31) -/

/-- The registers whose writes are dropped while BUSY (R25). -/
def WindowReg.filtered : WindowReg → Bool
  | .cmd | .uop | .secret _ | .point _ => true
  | .id | .status | .irqEn | .reserved | .result _ => false

theorem writeWindow_filtered {r : WindowReg} (h : r.filtered = true) (v : Word) {s : State} (hb : s.busy = true) :
    writeWindow r v s = setOverrun s := by
  cases r with
  | cmd | uop | secret | point => exact if_pos hb
  | id | status | irqEn | reserved | result => cases h

theorem unlessBusy_idle {s : State} (t : State) (hb : s.busy = false) : unlessBusy s t = t := by
  simp [unlessBusy, hb]

theorem windowReg_filtered {off : Fin 128}
    (h : off.val = 0x04 ∨ off.val = 0x0C ∨ (0x20 ≤ off.val ∧ off.val < 0x60)) : (windowReg off).filtered = true := by
  rcases h with h | h | ⟨h, h'⟩
  · rw [windowReg_cmd h]; rfl
  · rw [windowReg_uop h]; rfl
  · by_cases hs : off.val < 0x40
    · rw [windowReg_secret h hs]; rfl
    · rw [windowReg_point (by omega) h']; rfl

/-- What a write can do to STATUS: a start, a STATUS write, an overrun, or nothing (R25, R27, R223). -/
theorem writeWindow_status_cases (r : WindowReg) (v : Word) (s : State) :
    (r = .cmd ∧ s.busy = false ∧ writeWindow r v s = startCommand v s) ∨
    (r = .status ∧ writeWindow r v s = writeStatus v s) ∨
    writeWindow r v s = setOverrun s ∨
    ((writeWindow r v s).busy = s.busy ∧ (writeWindow r v s).done = s.done ∧ (writeWindow r v s).err = s.err ∧
      (writeWindow r v s).ovr = s.ovr ∧ (writeWindow r v s).errcode = s.errcode) := by
  cases hb : s.busy with
  | true =>
    cases r <;> simp [writeWindow, unlessBusy, hb]
  | false =>
    cases r <;> simp [writeWindow, unlessBusy, hb]

/-! ### One step, inverted -/

/-- What a step that answers `t` did: nothing of the block (an idle turn, a read, a refused or outside access), a
completion, an accepted write, or a change of the reset line. -/
inductive StepEffect (s t : State) : Prop
  | quiet (ht : t = { s with inputs := t.inputs, response := t.response })
  | completes (rest : List Input) (hb : s.busy = true) (hr : s.inReset = false)
      (hin : s.inputs = [] ∨ s.inputs.head? = some .engine) (hc : CommandCompletes (takeInput s rest) t)
  | writes (off : Fin 128) (v : Word) (rest : List Input) (hr : s.inReset = false) (hoff : off.val % 4 = 0)
      (hin : s.inputs = memWrite off v :: rest)
      (ht : t = respond (writeWindow (windowReg off) v (takeInput s rest)) .written)
  | asserts (rest : List Input) (hin : s.inputs = .resetAssert :: rest) (ht : t = assertReset (takeInput s rest))
  | releases (rest : List Input) (hin : s.inputs = .resetRelease :: rest) (ht : t = releaseReset (takeInput s rest))

theorem engineTurn_effect {s t : State} {rest : List Input} (hin : s.inputs = [] ∨ s.inputs.head? = some .engine)
    (h : engineTurn exec (takeInput s rest) = .next t) : StepEffect s t := by
  rcases engineTurn_cases (takeInput s rest) with ⟨hb, hr, u, hu, hc⟩ | ⟨-, hu⟩
  · cases hu.symm.trans h; exact .completes rest hb hr hin hc
  · cases hu.symm.trans h; exact .quiet rfl

theorem hostTurn_effect {s t : State} {a : HostAccess} {rest : List Input} (hin : s.inputs = .host a :: rest)
    (h : hostTurn a (takeInput s rest) = .next t) : StepEffect s t := by
  rcases hostTurn_cases a (takeInput s rest) with ⟨-, hu⟩ | ⟨-, -, -, hu⟩ | ⟨off, ht, hr, hu⟩
  · cases hu.symm.trans h; exact .quiet rfl
  · cases hu.symm.trans h
  · cases hu.symm.trans h
    rcases accessWindow_cases off a (takeInput s rest) with ⟨-, -, hw⟩ | ⟨v, hacc, hop, hw⟩ | ⟨-, hw⟩
    · rw [hw]; exact .quiet rfl
    · exact .writes off v rest hr ((accepted_iff off a).1 hacc).1 (host_eq_memWrite ht hacc hop ▸ hin) hw
    · rw [hw]; exact .quiet rfl

theorem step_effect {s t : State} (h : step s = .next t) : StepEffect s t := by
  match hin : s.inputs with
  | [] =>
    have hs : takeInput s [] = s := by rw [← hin]; rfl
    exact engineTurn_effect (rest := []) (.inl hin) (by rw [hs, ← step_nil hin, h])
  | .engine :: rest => exact engineTurn_effect (.inr (by rw [hin]; rfl)) (by rw [← step_engine hin, h])
  | .host a :: rest => exact hostTurn_effect hin (by rw [← step_host hin, h])
  | .resetAssert :: rest => cases (step_resetAssert hin).symm.trans h; exact .asserts rest hin rfl
  | .resetRelease :: rest => cases (step_resetRelease hin).symm.trans h; exact .releases rest hin rfl

/-! ### The invariant, part by part -/

theorem commandCompletes_statusLegal {s t : State} (h : CommandCompletes s t) : StatusLegal t := by
  obtain ⟨u, -, rfl | ⟨c, rfl⟩⟩ := h
  · simp [StatusLegal]
  · cases c <;> simp [StatusLegal, errorCode]

theorem writeWindow_statusLegal (r : WindowReg) (v : Word) {s : State} (h : StatusLegal s) :
    StatusLegal (writeWindow r v s) := by
  rcases writeWindow_status_cases r v s with ⟨-, -, hw⟩ | ⟨-, hw⟩ | hw | ⟨hb, hd, he, -, hc⟩
  · rw [hw]; simp [StatusLegal]
  · obtain ⟨hbusy, hok, herr⟩ := h
    rw [hw]
    exact ⟨fun hb => by simp [hbusy hb], hok, herr⟩
  · rw [hw]; exact h
  · unfold StatusLegal; rw [hb, hd, he, hc]; exact h

theorem assertReset_resultCanonical (s : State) : ResultCanonical (assertReset s) :=
  show bufferVal zeroBuffer < fieldPrime by decide

theorem assertReset_inv (s : State) : Inv (assertReset s) :=
  ⟨by simp [StatusLegal, State.reset], .inl rfl, assertReset_resultCanonical s, fun _ => rfl⟩

/-- The inputs and the last answer are no part of the invariant (logs 2 and 3). -/
theorem inv_of_same_block {s : State} (h : Inv s) (is : List Input) (r : HostResponse) :
    Inv { s with inputs := is, response := r } := by
  obtain ⟨hst, hk, hres, hrst⟩ := h
  exact ⟨hst, hk, hres, fun hr => congrArg (fun u : State => { u with inputs := is, response := r }) (hrst hr)⟩

end Sys2Proof.Machine
end

section
/-! PROOFS. What reads answer, what the host cannot see, and which writes lower a flag. -/

namespace Sys2Proof.Machine

/-! ### What a read answers -/

/-- R27's bits as a sum. -/
theorem statusWord_toNat (s : State) :
    (statusWord s).toNat =
      s.busy.toNat + 2 * s.done.toNat + 4 * s.err.toNat + 8 * s.ovr.toNat + 16 * s.errcode.toNat := by
  have hsum : ∀ (b d e o : Bool) (c : BitVec 4),
      (flagBit b 0 ||| flagBit d 1 ||| flagBit e 2 ||| flagBit o 3 ||| BitVec.ofNat 32 (c.toNat * 2 ^ 4)).toNat =
        b.toNat + 2 * d.toNat + 4 * e.toNat + 8 * o.toNat + 16 * c.toNat := by decide
  exact hsum _ _ _ _ _

theorem irqEnWord_toNat (s : State) : (irqEnWord s).toNat = s.doneIe.toNat := by
  have hbit : ∀ b : Bool, (flagBit b 0).toNat = b.toNat := by decide
  exact hbit _

theorem readWindow_zero {off : Fin 128} (h : off.val = 0x04 ∨ (0x14 ≤ off.val ∧ off.val < 0x40)) (s : State) :
    readWindow (windowReg off) s = 0 := by
  rcases h with h | ⟨h, h'⟩
  · rw [windowReg_cmd h]; rfl
  · by_cases hs : off.val < 0x20
    · rw [windowReg_reserved h hs]; rfl
    · rw [windowReg_secret (by omega) h']; rfl

/-! ### States that differ in F, K and SECRET -/

/-- `s` with other values in the three places the host cannot read (R20, R22, R30). -/
def withHidden (s : State) (f : Vector FieldReg 16) (k : BitVec 256) (secret : Buffer) : State :=
  { s with f := f, k := k, secret := secret }

section hidden

variable (s : State) (f : Vector FieldReg 16) (k : BitVec 256) (secret : Buffer)

theorem readWindow_withHidden (r : WindowReg) : readWindow r (withHidden s f k secret) = readWindow r s := by
  cases r <;> rfl

theorem unlessBusy_withHidden (t : State) (b : Buffer) :
    ∃ b', unlessBusy (withHidden s f k secret) (withHidden t f k b) = withHidden (unlessBusy s t) f k b' := by
  cases hb : s.busy with
  | true => exact ⟨secret, by simp [unlessBusy, withHidden, setOverrun, hb]⟩
  | false => exact ⟨b, by simp [unlessBusy, withHidden, hb]⟩

theorem writeWindow_withHidden (r : WindowReg) (v : Word) :
    ∃ b, writeWindow r v (withHidden s f k secret) = withHidden (writeWindow r v s) f k b := by
  cases r with
  | cmd => exact unlessBusy_withHidden s f k secret (startCommand v s) secret
  | uop => exact unlessBusy_withHidden s f k secret (writeUop s v) secret
  | secret w => exact unlessBusy_withHidden s f k secret (writeSecret s w v) (secret.set w.val v)
  | point w => exact unlessBusy_withHidden s f k secret (writePoint s w v) secret
  | id | status | irqEn | reserved | result => exact ⟨secret, rfl⟩

theorem accessWindow_withHidden (off : Fin 128) (a : HostAccess) :
    ∃ b, accessWindow off a (withHidden s f k secret) = withHidden (accessWindow off a s) f k b := by
  rcases accessWindow_cases off a s with ⟨hacc, hop, h⟩ | ⟨v, hacc, hop, h⟩ | ⟨hacc, h⟩
  · exact ⟨secret, by rw [h, accessWindow_read hacc hop, readWindow_withHidden]; rfl⟩
  · obtain ⟨b, hb⟩ := writeWindow_withHidden s f k secret (windowReg off) v
    exact ⟨b, by rw [h, accessWindow_write hacc hop, hb]; rfl⟩
  · exact ⟨secret, by rw [h]; simp [accessWindow, hacc, withHidden, respond]⟩

theorem hostTurn_withHidden {a : HostAccess} {t : State} (h : hostTurn a s = .next t) :
    ∃ b, hostTurn a (withHidden s f k secret) = .next (withHidden t f k b) := by
  rcases hostTurn_cases a s with ⟨ht, hu⟩ | ⟨-, -, -, hu⟩ | ⟨off, ht, hr, hu⟩
  · cases hu.symm.trans h
    exact ⟨secret, by simp [hostTurn, ht, withHidden, respond]⟩
  · cases hu.symm.trans h
  · cases hu.symm.trans h
    obtain ⟨b, hb⟩ := accessWindow_withHidden s f k secret off a
    exact ⟨b, by rw [hostTurn_window (s := withHidden s f k secret) ht hr, hb]⟩

end hidden

/-! ### The sticky flags -/

/-- A write that lowers a sticky flag is a STATUS write with the flag's bit or a start (R27, R223, R244, R245). -/
theorem writeWindow_lowers (r : WindowReg) (v : Word) (s : State) :
    (s.done = true → (writeWindow r v s).done = false →
      (r = .status ∧ v.getLsbD 1 = true) ∨ (r = .cmd ∧ s.busy = false)) ∧
    (s.ovr = true → (writeWindow r v s).ovr = false → r = .status ∧ v.getLsbD 3 = true) ∧
    (s.err = true → (writeWindow r v s).err = false → r = .cmd) := by
  rcases writeWindow_status_cases r v s with ⟨hr, hb, hw⟩ | ⟨hr, hw⟩ | hw | ⟨-, hd, he, ho, -⟩
  · rw [hw]; simp +contextual [hr, hb]
  · rw [hw]; simp +contextual [hr]
  · rw [hw]; simp +contextual
  · rw [hd, he, ho]; simp +contextual

end Sys2Proof.Machine
end

section
/-! PROOFS. The statements about the state, settled from the lemmas above. -/

open Sys2Proof Sys2Proof.Machine

/-- Settles O50, by the cases of a step. -/
theorem stepKeepsInvariant : Obligations.StepKeepsInvariant := by
  intro s t hinv hstep
  cases step_effect hstep with
  | quiet ht => rw [ht]; exact inv_of_same_block hinv _ _
  | completes rest hb hr hin hc =>
    obtain ⟨-, -, -, -, hreset⟩ := hc.status
    have hstatus := commandCompletes_statusLegal hc
    obtain ⟨u, ⟨-, hk, hres⟩, ht⟩ := hc
    obtain ⟨-, hks, hress, -⟩ := hinv
    refine ⟨hstatus, ?_, ?_, fun h => absurd (hreset.symm.trans h) (by simp [hr])⟩
    · rcases ht with rfl | ⟨c, rfl⟩ <;> exact hk hks
    · rcases ht with rfl | ⟨c, rfl⟩ <;> exact hres hress
  | writes off v rest hr hoff hin ht =>
    obtain ⟨hst, hk, hres, -⟩ := hinv
    obtain ⟨-, fk, fres, freset, -⟩ := writeWindow_frame (windowReg off) v (takeInput s rest)
    subst ht
    refine ⟨writeWindow_statusLegal (windowReg off) v (s := takeInput s rest) hst, ?_, ?_, fun h => ?_⟩
    · unfold ScalarLegal; rw [respond_k, fk]; exact hk
    · unfold ResultCanonical; rw [respond_result, fres]; exact hres
    · exact absurd (freset.symm.trans h) (by simp [hr])
  | asserts rest hin ht => rw [ht]; exact assertReset_inv _
  | releases rest hin ht =>
    obtain ⟨hst, hk, hres, -⟩ := hinv
    rw [ht]
    exact ⟨hst, hk, hres, fun h => absurd h (by simp)⟩

/-- Settles O42: the register of each offset, then what a write to that register does. -/
theorem writeWhileBusyFilter : Obligations.WriteWhileBusyFilter := by
  intro s off v rest hr hoff hin
  have hstep := step_memWrite hr hoff hin
  refine ⟨fun hb h => ?_, fun h => ?_, fun h => ?_, fun h => ?_⟩
  · rw [hstep, writeWindow_filtered (windowReg_filtered h) v (s := takeInput s rest) hb]; rfl
  · rw [hstep, windowReg_status h]; rfl
  · rw [hstep, windowReg_irqEn h]; rfl
  · rcases h with h | ⟨h, h'⟩ | h
    · rw [hstep, windowReg_id h]; rfl
    · rw [hstep, windowReg_reserved h h']; rfl
    · rw [hstep, windowReg_result h]; rfl

/-- Settles O43: while IDLE the busy filter lets the write through to its word. -/
theorem idleWritesReachRegisters : Obligations.IdleWritesReachRegisters := by
  intro s w v rest off hb hr hin
  have hidle : ∀ t, unlessBusy (takeInput s rest) t = t := fun t => unlessBusy_idle t hb
  have hother : ∀ (b : Buffer) (x : Fin 8), x ≠ w → (b.set w.val v)[x.val] = b[x.val] := fun b x hx =>
    Vector.getElem_set_ne _ _ fun e => hx (Fin.ext e.symm)
  refine ⟨fun h => ?_, fun h => ⟨s.secret.set w.val v, ?_, Vector.getElem_set_self _, hother _⟩,
    fun h => ⟨s.point.set w.val v, ?_, Vector.getElem_set_self _, hother _⟩⟩
  · rw [step_memWrite hr (by omega) hin, windowReg_uop h, writeWindow, hidle]; rfl
  · rw [step_memWrite hr (by omega) hin, windowReg_secret_word h, writeWindow, hidle]; rfl
  · rw [step_memWrite hr (by omega) hin, windowReg_point_word h, writeWindow, hidle]; rfl

/-- Settles O44: a read answers what its register shows, by the window's map. -/
theorem readsAnswerAndChangeNothing : Obligations.ReadsAnswerAndChangeNothing := by
  intro s off w rest hr hoff hin
  refine ⟨_, step_memRead hr hoff hin, fun h => ?_, fun h => ?_, fun h => ?_, fun h => ?_,
    fun h => readWindow_zero h _, fun h => ?_, fun h => ?_⟩
  · rw [windowReg_id h]; rfl
  · rw [windowReg_status h]; exact statusWord_toNat (takeInput s rest)
  · rw [windowReg_uop h]; rfl
  · rw [windowReg_irqEn h]; exact irqEnWord_toNat (takeInput s rest)
  · rw [windowReg_point_word h]; rfl
  · rw [windowReg_result_word h]; rfl

/-- Settles O53: each access answers alike and keeps the difference in F, K and SECRET. -/
theorem hostReadsHideSecretFieldAndScalar : Obligations.HostReadsHideSecretFieldAndScalar := by
  intro s t s' t' a rest hin ht hs ht'
  have hhid : t = withHidden s t.f t.k t.secret := ht
  rw [hhid, step_host (s := withHidden s t.f t.k t.secret) hin] at ht'
  rw [step_host hin] at hs
  obtain ⟨b, hb⟩ := hostTurn_withHidden (takeInput s rest) t.f t.k t.secret hs
  cases hb.symm.trans ht'
  exact ⟨rfl, rfl⟩

/-- Settles O55, by the four kinds of micro-op. -/
theorem microOpsWriteOnlyTheirTargets : Obligations.MicroOpsWriteOnlyTheirTargets := by
  intro i s t hu hw ht
  rcases exec_uop_cases hu hw s with ⟨u, h, hc, hr⟩ | ⟨rfl, h⟩ | ⟨rfl, h⟩ | ⟨ra, rfl, h⟩ <;>
    cases h.symm.trans ht
  · rw [hc]
    exact ⟨rfl, fun _ _ => rfl, fun _ => rfl, rfl, rfl, rfl, rfl, rfl, fun r hm => hc ▸ hr r hm⟩
  · exact ⟨rfl, fun h => absurd rfl h, fun _ => rfl, rfl, rfl, rfl, rfl, rfl, fun _ _ => rfl⟩
  · exact ⟨rfl, fun _ h => absurd rfl h, fun _ => rfl, rfl, rfl, rfl, rfl, rfl,
      fun r hm => absurd (List.mem_finRange r) hm⟩
  · exact ⟨rfl, fun _ _ => rfl, fun h => absurd rfl (h ra), rfl, rfl, rfl, rfl, rfl, fun _ _ => rfl⟩

/-- Settles O57, by the cases of a step: only a write and a reset lower a flag. -/
theorem stickyFlagsFallOnlyAsStated : Obligations.StickyFlagsFallOnlyAsStated := by
  intro s t hstep
  cases step_effect hstep with
  | quiet ht => rw [ht]; simp +contextual
  | completes rest hb hr hin hc =>
    obtain ⟨-, hd, ho, -, -⟩ := hc.status
    rw [hd, ho, hb]
    simp +contextual
  | writes off v rest hr hoff hin ht =>
    obtain ⟨hdone, hovr, herr⟩ := writeWindow_lowers (windowReg off) v (takeInput s rest)
    have hhead : s.inputs.head? = some (memWrite off v) := by rw [hin]; rfl
    have hstatus : windowReg off = .status → s.inputs.head? = some (memWrite 0x08 v) := fun h => by
      rw [hhead, offset_of_windowReg_status hoff h]
    have hcmd : windowReg off = .cmd → s.inputs.head? = some (memWrite 0x04 v) := fun h => by
      rw [hhead, offset_of_windowReg_cmd hoff h]
    subst ht
    refine ⟨fun h h' => .inr ?_, fun h h' => .inr ?_, fun h _ h' => .inr ⟨v, hcmd (herr h h')⟩⟩
    · rcases hdone h h' with ⟨hreg, hbit⟩ | ⟨hreg, hb⟩
      · exact .inl ⟨v, hbit, hstatus hreg⟩
      · exact .inr ⟨hb, v, hcmd hreg⟩
    · obtain ⟨hreg, hbit⟩ := hovr h h'
      exact ⟨v, hbit, hstatus hreg⟩
  | asserts rest hin ht =>
    have hhead : s.inputs.head? = some .resetAssert := by rw [hin]; rfl
    exact ⟨fun _ _ => .inl hhead, fun _ _ => .inl hhead, fun _ _ _ => .inl hhead⟩
  | releases rest hin ht => rw [ht]; simp +contextual

/-- Settles O47: the STATUS and IRQ_EN writes by their registers' rules, the rise by what a completion leaves. -/
theorem interruptIsDoneAndEnabled : Obligations.InterruptIsDoneAndEnabled := by
  refine ⟨fun _ => rfl, rfl, fun s v rest hr hin hv => ?_, fun s v rest hr hin => ?_, fun s rest hb hr hie hin => ?_⟩
  · refine ⟨_, step_memWrite hr (by decide) hin, ?_⟩
    simp [windowReg_status, writeWindow, irq, hv]
  · refine ⟨_, step_memWrite hr (by decide) hin, ?_⟩
    simp [windowReg_irqEn, writeWindow, irq]
  · obtain ⟨t, ht, hc⟩ := completeCommand_completes (takeInput s rest)
    obtain ⟨hbusy, hdone, -, hdoneIe, -⟩ := hc.status
    refine ⟨t, by rw [step_engine hin, engineTurn_busy (s := takeInput s rest) exec hb hr, ht], hbusy, ?_⟩
    rw [irq, hdone, hdoneIe]
    exact hie
end

section
/-! PROOFS. Buffers as bytes and words, where addresses and bursts land, and what a step keeps of F, K and RESULT. -/

namespace Sys2Proof.Machine

/-! ### Bytes and words of a buffer (R53, R54) -/

theorem bufferByte_eq_extract (b : Buffer) (w : Fin 8) (i : Fin 4) {j : Fin 32} (h : j.val = 4 * w.val + i.val) :
    bufferByte b j = b[w.val].extractLsb' (8 * i.val) 8 := by
  have hw : j.val / 4 = w.val := by omega
  have hi : j.val % 4 = i.val := by omega
  simp only [bufferByte, hw, hi]
  rfl

/-- A word is the sum of its four bytes. -/
theorem word_eq_sum_bytes (v : Word) :
    v.toNat = ∑ i : Fin 4, (v.extractLsb' (8 * i.val) 8).toNat * 2 ^ (8 * i.val) := by
  have := v.isLt
  simp only [Fin.sum_univ_four, BitVec.extractLsb'_toNat, Nat.shiftRight_eq_div_pow, Fin.coe_ofNat_eq_mod,
    Nat.reduceMod, Nat.reduceMul, Nat.reducePow]
  omega

theorem bufferVal_eq_sum_words (b : Buffer) : bufferVal b = ∑ w : Fin 8, b[w.val].toNat * 2 ^ (32 * w.val) := by
  simp only [bufferVal_eq, Fin.sum_univ_eight, Fin.coe_ofNat_eq_mod, Nat.reduceMod, Nat.reduceMul]
  omega

/-- A sum over the 32 bytes of a buffer, word by word. -/
theorem sum_bytes_by_word (g : Fin 32 → Nat) :
    ∑ j, g j = ∑ w : Fin 8, ∑ i : Fin 4, g ⟨4 * w.val + i.val, by omega⟩ := by
  rw [← (finProdFinEquiv (m := 8) (n := 4)).sum_comp g, Fintype.sum_prod_type]
  exact Finset.sum_congr rfl fun w _ => Finset.sum_congr rfl fun i _ => congrArg g (Fin.ext (Nat.add_comm _ _))

theorem bufferVal_eq_sum_bytes (b : Buffer) :
    bufferVal b = ∑ j : Fin 32, (bufferByte b j).toNat * 2 ^ (8 * j.val) := by
  rw [bufferVal_eq_sum_words, sum_bytes_by_word]
  refine Finset.sum_congr rfl fun w _ => ?_
  rw [word_eq_sum_bytes, Finset.sum_mul]
  refine Finset.sum_congr rfl fun i _ => ?_
  have hweight : 8 * i.val + 32 * w.val = 8 * (4 * w.val + i.val) := by omega
  rw [bufferByte_eq_extract b w i rfl, mul_assoc, ← pow_add, hweight]

/-- Word w of a buffer, cut out of its integer. -/
theorem bufferVal_div_mod (b : Buffer) (w : Fin 8) : bufferVal b / 2 ^ (32 * w.val) % 2 ^ 32 = b[w.val].toNat := by
  have h0 := b[0].isLt; have h1 := b[1].isLt; have h2 := b[2].isLt; have h3 := b[3].isLt
  have h4 := b[4].isLt; have h5 := b[5].isLt; have h6 := b[6].isLt; have h7 := b[7].isLt
  rw [bufferVal_eq]
  fin_cases w <;> simp only [Nat.reduceMul] <;> omega

/-- Bit 32w + i of a buffer's integer is bit i of word w. -/
theorem bufferVal_testBit (b : Buffer) (w : Fin 8) {i : Nat} (hi : i < 32) :
    (bufferVal b).testBit (32 * w.val + i) = b[w.val].getLsbD i := by
  rw [BitVec.getLsbD, ← bufferVal_div_mod b w, Nat.testBit_mod_two_pow, Nat.testBit_div_two_pow, Nat.add_comm i]
  simp [hi]

/-! ### Addresses and bursts (R50, R51) -/

theorem targetOfOffset_eq_dite (n : Nat) :
    targetOfOffset n = if h : n < 0x80 then .window ⟨n, h⟩ else .outside := rfl

theorem targetOfOffset_eq_window_iff {n : Nat} {off : Fin 128} : targetOfOffset n = .window off ↔ n = off.val := by
  refine ⟨fun h => ?_, fun h => h ▸ targetOfOffset_window off⟩
  rw [targetOfOffset_eq_dite] at h
  split at h
  · cases h; rfl
  · cases h

theorem targetOfOffset_eq_outside_iff {n : Nat} : targetOfOffset n = .outside ↔ 0x80 ≤ n := by
  refine ⟨fun h => ?_, targetOfOffset_outside⟩
  by_contra hn
  rw [targetOfOffset_eq_dite, dif_pos (by omega)] at h
  cases h

theorem targetOfAddress_below {addr : Nat} (h : addr < Config.base) : targetOfAddress addr = .outside :=
  if_neg (Nat.not_le.2 h)

theorem targetOfAddress_from {addr : Nat} (h : Config.base ≤ addr) :
    targetOfAddress addr = targetOfOffset (addr - Config.base) := if_pos h

theorem targetOfAddress_eq_window_iff {addr : Nat} {off : Fin 128} :
    targetOfAddress addr = .window off ↔ addr = Config.base + off.val := by
  by_cases h : Config.base ≤ addr
  · rw [targetOfAddress_from h, targetOfOffset_eq_window_iff]
    omega
  · rw [targetOfAddress_below (by omega)]
    exact iff_of_false nofun (by omega)

theorem targetOfAddress_eq_outside_iff {addr : Nat} :
    targetOfAddress addr = .outside ↔ addr < Config.base ∨ Config.base + 0x80 ≤ addr := by
  by_cases h : Config.base ≤ addr
  · rw [targetOfAddress_from h, targetOfOffset_eq_outside_iff]
    omega
  · have hlt : addr < Config.base := by omega
    exact iff_of_true (targetOfAddress_below hlt) (.inl hlt)

theorem hostTurn_outside {a : HostAccess} (ht : a.target = .outside) (s : State) :
    hostTurn a s = .next (respond s .platform) := by
  simp [hostTurn, ht]

/-- The i-th access of a burst from `n` on is at `n + 4i`. -/
theorem burst_getElem? (locate : Nat → Target) (n : Nat) (ops : List HostOp) (i : Nat) :
    (burst locate n ops)[i]? = ops[i]?.map fun op => singleAccess (locate (n + 4 * i)) op := by
  induction ops generalizing n i with
  | nil => rfl
  | cons op ops ih =>
    cases i with
    | zero => rfl
    | succ i =>
      have hn : n + 4 + 4 * i = n + 4 * (i + 1) := by omega
      simp only [burst_cons, List.getElem?_cons_succ, ih, hn]

/-- A single access at an offset: in the window below 0x80, outside it from there on. -/
theorem singleAccess_targetOfOffset (n : Nat) (op : HostOp) :
    singleAccess (targetOfOffset n) op =
      if h : n < 0x80 then singleAccess (.window ⟨n, h⟩) op else .host ⟨.outside, 32, 0xF, op⟩ := by
  rw [targetOfOffset_eq_dite]
  split <;> rfl

/-! ### What a step keeps of F, K and RESULT (R59) -/

/-- A step that completes no command and asserts no reset leaves F, K and RESULT alone. -/
theorem StepEffect.engineState {s t : State} (h : StepEffect s t) :
    (s.busy = true ∧ s.inReset = false ∧ t.busy = false ∧ t.done = true ∧
      (s.inputs = [] ∨ s.inputs.head? = some .engine)) ∨
    s.inputs.head? = some .resetAssert ∨ (t.f = s.f ∧ t.k = s.k ∧ t.result = s.result) := by
  cases h with
  | quiet ht => rw [ht]; exact .inr (.inr ⟨rfl, rfl, rfl⟩)
  | completes rest hb hr hin hc =>
    obtain ⟨hbusy, hdone, -⟩ := hc.status
    exact .inl ⟨hb, hr, hbusy, hdone, hin⟩
  | writes off v rest hr hoff hin ht =>
    obtain ⟨hf, hk, hresult, -⟩ := writeWindow_frame (windowReg off) v (takeInput s rest)
    rw [ht]
    exact .inr (.inr ⟨hf, hk, hresult⟩)
  | asserts rest hin ht => exact .inr (.inl (by rw [hin]; rfl))
  | releases rest hin ht => rw [ht]; exact .inr (.inr ⟨rfl, rfl, rfl⟩)

end Sys2Proof.Machine
end

section
/-! PROOFS. The statements about memory, settled from the lemmas above. -/

open Sys2Proof Sys2Proof.Machine

/-- Settles O46: the sums by words, each word by its bytes, the bits by cutting a word out of the integer. -/
theorem bufferBytesAreLittleEndian : Obligations.BufferBytesAreLittleEndian := by
  intro b
  refine ⟨fun w i j h => bufferByte_eq_extract b w i h, bufferVal_eq_sum_bytes b, bufferVal_eq_sum_words b,
    bufferVal_testBit b 7 (i := 31) (by decide), fun j hj => ?_⟩
  simpa only [Fin.val_zero, Nat.mul_zero, Nat.zero_add] using bufferVal_testBit b 0 (i := j) (by omega)

/-- Settles O56, by the cases of a step. -/
theorem onlyCompletionChangesEngineState : Obligations.OnlyCompletionChangesEngineState := by
  intro s t hstep hchange
  rcases (step_effect hstep).engineState with hcompletes | hreset | ⟨hf, hk, hresult⟩
  · exact .inl hcompletes
  · exact .inr hreset
  · simp [hf, hk, hresult] at hchange

/-- Settles O45: an access the block does not take falls to the last case of `accessWindow_cases`. -/
theorem refusedAccessChangesNothing : Obligations.RefusedAccessChangesNothing := by
  intro s off a rest hr hin ht hbad
  have hrefused : accepted off a ≠ true := fun hacc => by
    obtain ⟨hoff, hwidth, hstrobes⟩ := (accepted_iff off a).1 hacc
    simp [hoff, hwidth, hstrobes] at hbad
  rw [step_host hin, hostTurn_window (s := takeInput s rest) ht hr]
  rcases accessWindow_cases off a (takeInput s rest) with ⟨hacc, -⟩ | ⟨v, hacc, -⟩ | ⟨-, hw⟩
  · exact absurd hacc hrefused
  · exact absurd hacc hrefused
  · rw [hw]; rfl

/-- Settles O59: outside the window the host's turn only records the platform's answer. -/
theorem outsideAccessChangesNothing : Obligations.OutsideAccessChangesNothing := by
  refine ⟨fun s a rest hin ht => ?_, fun _ _ => targetOfAddress_eq_window_iff,
    fun _ => targetOfAddress_eq_outside_iff⟩
  rw [step_host hin, hostTurn_outside ht]
  rfl

/-- Settles O60, by the i-th access of any burst. -/
theorem burstIsItsSingleAccesses : Obligations.BurstIsItsSingleAccesses := by
  refine ⟨fun addr ops i => burst_getElem? targetOfAddress addr ops i, fun n vs i => ?_, fun n count i => ?_⟩
  · simp only [burstWrites, burst_getElem?, List.getElem?_map, Option.map_map, Function.comp_def,
      singleAccess_targetOfOffset]
    rfl
  · rw [burstReads, burst_getElem?, List.getElem?_replicate]
    split
    · exact congrArg some (singleAccess_targetOfOffset (n + 4 * i) .read)
    · rfl
end

section
/-! PROOFS. The decoder and the encoder as inverses, from one lemma about the bits a form does not use. -/

namespace Sys2Proof

/-! ### A word and its fields (R83) -/

theorem opcField_eq (w : Word) : opcField w = w.toNat / 2 ^ 24 := by
  have := w.isLt
  simp only [opcField, bits]
  omega

theorem immField_eq_zero_iff (w : Word) : immField w = 0 ↔ w.toNat % 2 ^ 12 = 0 := by
  simp [immField, bits, BitVec.toNat_eq]

/-- A register number is even exactly when the lowest bit of its field is 0 (R85). -/
theorem pairBase_regField (lo : Nat) (w : Word) : pairBase (regField lo w) = !w.getLsbD lo := by
  have hpar : w.toNat / 2 ^ lo % 2 ^ (lo + 3 + 1 - lo) % 16 % 2 = w.toNat / 2 ^ lo % 2 := by
    rw [show lo + 3 + 1 - lo = 4 by omega]
    omega
  rw [BitVec.getLsbD, Nat.testBit_eq_decide_div_mod_eq, pairBase, regField, bits, Fin.val_ofNat, hpar]
  rcases Nat.mod_two_eq_zero_or_one (w.toNat / 2 ^ lo) with h | h <;> simp [h]

/-- Assembling a word's fields gives the word back. -/
theorem uopWord_fields (w : Word) :
    uopWord (opcField w) (rdField w) (raField w) (rbField w) (immField w).toNat = w := by
  have := w.isLt
  have ho : opcField w < 2 ^ 8 := Nat.mod_lt _ (by decide)
  apply BitVec.eq_of_toNat_eq
  rw [uopWord_toNat _ _ _ ho (immField w).isLt]
  simp only [opcField, rdField, raField, rbField, regField, immField, bits, Fin.val_ofNat, BitVec.toNat_ofNat]
  omega

/-- CSWAP's bit index is what is left of imm without its top four bits. -/
theorem immField_and_bitIndex (w : Word) : immField w &&& 0x0FF#12 = BitVec.ofNat 12 (bitIndexField w).toNat := by
  apply BitVec.eq_of_toNat_eq
  have hlow : ∀ n : Nat, n &&& 255 = n % 2 ^ 8 := fun n => Nat.and_two_pow_sub_one_eq_mod n 8
  simp only [BitVec.toNat_and, BitVec.toNat_ofNat, immField, bitIndexField, bits, Nat.reduceMod, Nat.reducePow, hlow]
  omega

/-- An immediate's number is that of its 12 bits. -/
theorem ofNat_immField_toNat (w : Word) : BitVec.ofNat 12 (immField w).toNat = immField w := by simp

/-- Clearing the bits of a mask leaves a word alone exactly when it has none of them. -/
theorem and_not_eq_self_iff {n : Nat} (x m : BitVec n) : x &&& ~~~m = x ↔ x &&& m = 0 := by
  constructor
  · intro h
    rw [← h, BitVec.and_assoc]
    simp
  · intro h
    calc x &&& ~~~m = (x &&& ~~~m) ||| (x &&& m) := by simp [h]
      _ = x := by rw [← BitVec.and_or_distrib_left]; simp

/-! ### The bits a form uses (R84) -/

/-- All four bits of a register field, or none. -/
def nibbleMask (used : Bool) : BitVec 4 := bif used then BitVec.allOnes 4 else 0

/-- The mask of a form's bits: OPC, the register fields it uses and the bits of imm it uses. -/
def usedMask (rd ra rb : Bool) (imm : BitVec 12) : Word :=
  0xFF#8 ++ (nibbleMask rd ++ (nibbleMask ra ++ (nibbleMask rb ++ imm)))

theorem ofNat_and_nibbleMask (r : FReg) (used : Bool) :
    BitVec.ofNat 4 r.val &&& nibbleMask used = BitVec.ofNat 4 (bif used then r else 0 : FReg).val := by
  cases used
  · exact BitVec.and_zero
  · exact BitVec.and_allOnes

/-- A word under the mask of its form's bits is assembled from the fields of its form. -/
theorem and_usedMask (w : Word) (rd ra rb : Bool) {imm : Nat} {m : BitVec 12} (hi : imm < 2 ^ 12)
    (hm : immField w &&& m = BitVec.ofNat 12 imm) :
    w &&& usedMask rd ra rb m = uopWord (opcField w) (bif rd then rdField w else 0) (bif ra then raField w else 0)
      (bif rb then rbField w else 0) imm := by
  have ho : opcField w < 2 ^ 8 := Nat.mod_lt _ (by decide)
  conv_lhs => rw [← uopWord_fields w]
  rw [usedMask, Laws.uopWord_and _ _ _ ho (immField w).isLt, uopWord_eq_append _ _ _ ho hi, ofNat_immField_toNat, hm]
  simp only [ofNat_and_nibbleMask]
  rw [show (0xFF#8) = BitVec.allOnes 8 from rfl, BitVec.and_allOnes]

/-- The encoding of what a word's opcode selects is the word with the reserved bits of its form cleared. -/
theorem encode_of_uopOfOpcode {w : Word} {i : Instr} (h : uopOfOpcode (opcField w) w = some i) :
    encode i = w &&& ~~~reservedZeroMask (opcField w) := by
  have noImm := fun rd ra rb => (and_usedMask w rd ra rb (imm := 0) (by decide) BitVec.and_zero).symm
  have allImm := fun rd ra rb => (and_usedMask w rd ra rb (immField w).isLt
    (BitVec.and_allOnes.trans (ofNat_immField_toNat w).symm)).symm
  have bitImm := fun rd ra rb => (and_usedMask w rd ra rb ((bitIndexField w).isLt.trans (by decide))
    (immField_and_bitIndex w)).symm
  generalize opcField w = opc at *
  unfold uopOfOpcode at h
  split at h <;> cases h
  case h_1 | h_2 | h_3 => exact noImm true true true
  case h_4 => exact allImm true true false
  case h_5 | h_6 | h_12 => exact noImm true true false
  case h_7 => exact allImm true false false
  case h_8 => exact bitImm false true true
  case h_10 => exact noImm true false false
  case h_11 => exact noImm false true false
  case h_9 | h_13 | h_14 | h_15 => exact noImm false false false

/-- The opcode and the fields of an encoded micro-op select that micro-op (R86). -/
theorem uopOfOpcode_encode {i : Instr} (hu : Machine.isUop i = true) :
    uopOfOpcode (opcField (encode i)) (encode i) = some i := by
  cases i with
  | derive => cases hu
  | execUop => cases hu
  | _ =>
    simp (disch := omega) [encode, uopOfOpcode, opcField_uopWord, rdField_uopWord, raField_uopWord, rbField_uopWord,
      immField_uopWord, bitIndexField_uopWord]

/-- A word without reserved bits is the encoding of what its opcode selects. -/
theorem encode_eq_iff_of_uopOfOpcode {w : Word} {i : Instr} (h : uopOfOpcode (opcField w) w = some i) :
    encode i = w ↔ w &&& reservedZeroMask (opcField w) = 0 := by
  rw [encode_of_uopOfOpcode h, and_not_eq_self_iff]

/-! ### The checks of R88 -/

/-- The opcodes without a micro-op (R87). -/
theorem uopOfOpcode_eq_none_iff (opc : Nat) (w : Word) : uopOfOpcode opc w = none ↔ opc = 0 ∨ 16 ≤ opc := by
  constructor
  · intro h
    by_contra hopc
    have hlow : 1 ≤ opc := by omega
    have hhigh : opc < 16 := by omega
    interval_cases opc <;> cases h
  · rintro (rfl | hopc)
    · rfl
    · unfold uopOfOpcode
      split
      case h_16 => rfl
      all_goals omega

/-- The opcodes with a micro-op (R86). -/
theorem exists_uopOfOpcode_iff (opc : Nat) (w : Word) :
    (∃ i, uopOfOpcode opc w = some i) ↔ 1 ≤ opc ∧ opc < 16 := by
  rw [← Option.ne_none_iff_exists', ne_eq, uopOfOpcode_eq_none_iff]
  omega

/-- The operand checks fail on the bits of the word: FSQR with count 0, CSWAP with an odd register (R87). -/
theorem wellFormed_eq_false_iff {w : Word} {i : Instr} (h : uopOfOpcode (opcField w) w = some i) :
    i.wellFormed = false ↔ (opcField w = 4 ∧ w.toNat % 2 ^ 12 = 0) ∨
      (opcField w = 8 ∧ (w.getLsbD 16 = true ∨ w.getLsbD 12 = true)) := by
  have hra : pairBase (raField w) = !w.getLsbD 16 := pairBase_regField 16 w
  have hrb : pairBase (rbField w) = !w.getLsbD 12 := pairBase_regField 12 w
  generalize opcField w = opc at *
  unfold uopOfOpcode at h
  split at h <;> cases h
  case h_4 => simpa [Instr.wellFormed] using immField_eq_zero_iff w
  case h_8 => simp [Instr.wellFormed, hra, hrb, imp_iff_not_or]
  all_goals exact iff_of_false nofun (by omega)

/-- What the micro-op decoder answers: the checks of R88 in their order, and the instruction when all of them pass. -/
inductive UopDecoding (w : Word) : Prop where
  | badOpcode (hsel : uopOfOpcode (opcField w) w = none) (hd : decodeUop w = .error .badOpcode)
  | badField (i : Instr) (hsel : uopOfOpcode (opcField w) w = some i)
      (hmask : w &&& reservedZeroMask (opcField w) ≠ 0) (hd : decodeUop w = .error .badField)
  | badOperand (i : Instr) (hsel : uopOfOpcode (opcField w) w = some i)
      (hmask : w &&& reservedZeroMask (opcField w) = 0) (hwf : i.wellFormed = false)
      (hd : decodeUop w = .error .badOperand)
  | ok (i : Instr) (hsel : uopOfOpcode (opcField w) w = some i)
      (hmask : w &&& reservedZeroMask (opcField w) = 0) (hwf : i.wellFormed = true) (hd : decodeUop w = .ok i)

theorem uopDecoding (w : Word) : UopDecoding w := by
  cases hsel : uopOfOpcode (opcField w) w with
  | none => exact .badOpcode hsel (by rw [decodeUop, hsel])
  | some i =>
    have hd : decodeUop w = if w &&& reservedZeroMask (opcField w) ≠ 0 then .error .badField
        else if i.wellFormed then .ok i else .error .badOperand := by rw [decodeUop, hsel]
    by_cases hmask : w &&& reservedZeroMask (opcField w) = 0
    · rw [if_neg (not_not.2 hmask)] at hd
      cases hwf : i.wellFormed with
      | true => exact .ok i hsel hmask hwf (by rw [hd, if_pos hwf])
      | false => exact .badOperand i hsel hmask hwf (by rw [hd, hwf]; rfl)
    · exact .badField i hsel hmask (by rw [hd, if_pos hmask])

theorem decodeUop_eq_badOpcode_iff (w : Word) :
    decodeUop w = .error .badOpcode ↔ uopOfOpcode (opcField w) w = none := by
  cases uopDecoding w with
  | badOpcode hsel hd | badField _ hsel _ hd | badOperand _ hsel _ _ hd | ok _ hsel _ _ hd => simp [hd, hsel]

theorem decodeUop_eq_badField_iff (w : Word) :
    decodeUop w = .error .badField ↔
      (∃ i, uopOfOpcode (opcField w) w = some i) ∧ w &&& reservedZeroMask (opcField w) ≠ 0 := by
  cases uopDecoding w with
  | badOpcode hsel hd => simp [hd, hsel]
  | badField i hsel hmask hd => exact iff_of_true hd ⟨⟨i, hsel⟩, hmask⟩
  | badOperand _ _ hmask _ hd | ok _ _ hmask _ hd => simp [hd, hmask]

theorem decodeUop_eq_badOperand_iff (w : Word) :
    decodeUop w = .error .badOperand ↔
      w &&& reservedZeroMask (opcField w) = 0 ∧
        ∃ i, uopOfOpcode (opcField w) w = some i ∧ i.wellFormed = false := by
  cases uopDecoding w with
  | badOpcode hsel hd => simp [hd, hsel]
  | badField _ _ hmask hd => exact iff_of_false (by simp [hd]) fun h => hmask h.1
  | badOperand i hsel hmask hwf hd => exact iff_of_true hd ⟨hmask, i, hsel, hwf⟩
  | ok _ hsel _ hwf hd => simp [hd, hsel, hwf]

theorem decodeUop_ne_badCmd (w : Word) : decodeUop w ≠ .error .badCmd := by
  cases uopDecoding w with
  | badOpcode _ hd | badField _ _ _ hd | badOperand _ _ _ _ hd | ok _ _ _ _ hd => simp [hd]

/-- What is selected and has a bad operand, on the bits of the word (R87). -/
theorem exists_illFormed_iff (w : Word) :
    (∃ i, uopOfOpcode (opcField w) w = some i ∧ i.wellFormed = false) ↔
      (opcField w = 4 ∧ w.toNat % 2 ^ 12 = 0) ∨
        (opcField w = 8 ∧ (w.getLsbD 16 = true ∨ w.getLsbD 12 = true)) := by
  constructor
  · rintro ⟨i, hsel, hwf⟩
    exact (wellFormed_eq_false_iff hsel).1 hwf
  · intro hbad
    obtain ⟨i, hsel⟩ := (exists_uopOfOpcode_iff (opcField w) w).2 (by omega)
    exact ⟨i, hsel, (wellFormed_eq_false_iff hsel).2 hbad⟩

/-! ### Decoding and encoding are inverse -/

theorem decodeUop_encode {i : Instr} (hu : Machine.isUop i = true) (hw : i.wellFormed = true) :
    decodeUop (encode i) = .ok i := by
  have hsel := uopOfOpcode_encode hu
  have hmask := (encode_eq_iff_of_uopOfOpcode hsel).1 rfl
  have hsame : ∀ {j}, uopOfOpcode (opcField (encode i)) (encode i) = some j → j = i := fun h =>
    Option.some.inj (h.symm.trans hsel)
  cases uopDecoding (encode i) with
  | badOpcode h => cases h.symm.trans hsel
  | badField j _ h => exact absurd hmask h
  | badOperand j h _ hwf => rw [hsame h, hw] at hwf; cases hwf
  | ok j h _ _ hd => rw [hd, hsame h]

theorem encode_of_decodeUop {w : Word} {i : Instr} (h : decodeUop w = .ok i) : encode i = w := by
  cases uopDecoding w with
  | badOpcode _ hd => cases hd.symm.trans h
  | badField _ _ _ hd => cases hd.symm.trans h
  | badOperand _ _ _ _ hd => cases hd.symm.trans h
  | ok j hsel hmask _ hd =>
    cases hd.symm.trans h
    exact (encode_eq_iff_of_uopOfOpcode hsel).2 hmask

theorem decodeCmd_encode {i : Instr} (hu : Machine.isUop i = false) : decodeCmd (encode i) = .ok i := by
  cases i with
  | derive => rfl
  | execUop => rfl
  | _ => cases hu

/-- No word is both a command and a micro-op (R82, R86). -/
theorem decodeCmd_of_decodeUop {w : Word} {i : Instr} (h : decodeUop w = .ok i) : ∃ c, decodeCmd w = .error c := by
  cases hc : decodeCmd w with
  | error c => exact ⟨c, rfl⟩
  | ok j => rcases Machine.decodeCmd_ok hc with ⟨rfl, -⟩ | ⟨rfl, -⟩ <;> cases h

theorem decodeWord_of_decodeCmd {w : Word} {i : Instr} (h : decodeCmd w = .ok i) : decodeWord w = some i := by
  rw [decodeWord, h]

theorem decodeWord_of_decodeUop {w : Word} {i : Instr} (h : decodeUop w = .ok i) : decodeWord w = some i := by
  obtain ⟨c, hc⟩ := decodeCmd_of_decodeUop h
  rw [decodeWord, hc, h]

theorem decodeTableWord_toNat (w : Word) : decodeTableWord 32 w.toNat = decodeWord w := by
  have hw : tableWord 32 w.toNat = w.toNat := Nat.mod_eq_of_lt w.isLt
  rw [decodeTableWord, hw, if_pos w.isLt, BitVec.ofNat_toNat, BitVec.setWidth_eq]

end Sys2Proof
end

section
/-! PROOFS. The statements about the encoding, settled from the lemmas above. -/

open Sys2Proof Sys2Proof.Machine

/-- Settles O3: each kind of word by its own decoder, and a word is never of both kinds. -/
theorem decodeOfEncodeIsInstr : Obligations.DecodeOfEncodeIsInstr := by
  intro i hw
  refine ⟨fun hu => decodeUop_encode hu hw, decodeCmd_encode, ?_⟩
  rw [decodeTableWord_toNat]
  cases hu : isUop i with
  | true => exact decodeWord_of_decodeUop (decodeUop_encode hu hw)
  | false => exact decodeWord_of_decodeCmd (decodeCmd_encode hu)

/-- Settles O4: a micro-op word without reserved bits is its encoding, and the command words are two constants. -/
theorem encodeOfDecodeIsWord : Obligations.EncodeOfDecodeIsWord := by
  rintro w i (h | h)
  · exact ⟨encode_of_decodeUop h, (decodeUop_ok h).2⟩
  · rcases decodeCmd_ok h with ⟨rfl, rfl⟩ | ⟨rfl, rfl⟩ <;> exact ⟨rfl, rfl⟩

/-- Settles O5, error by error. -/
theorem microOpErrorsFollowPriority : Obligations.MicroOpErrorsFollowPriority := by
  intro w
  rw [← opcField_eq]
  refine ⟨?_, ?_, ?_, decodeUop_ne_badCmd w⟩
  · rw [decodeUop_eq_badOpcode_iff, uopOfOpcode_eq_none_iff]
  · rw [decodeUop_eq_badField_iff, exists_uopOfOpcode_iff, and_assoc]
  · rw [decodeUop_eq_badOperand_iff, exists_illFormed_iff, ne_eq, not_not]

/-- Settles O1, by evaluating the encoder and the decoder on the spec's fixed words. -/
theorem workedEncodingsDecode : Obligations.WorkedEncodingsDecode := by
  unfold Obligations.WorkedEncodingsDecode
  decide

/-- Settles O2, by the two comparisons of the command decoder. -/
theorem commandWordsAreExact : Obligations.CommandWordsAreExact := by
  intro w
  have hderive : w = 0x00000001 ↔ w.toNat = 1 := BitVec.toNat_inj.symm
  have hexecUop : w = 0x00000002 ↔ w.toNat = 2 := BitVec.toNat_inj.symm
  simp only [decodeCmd, hderive, hexecUop]
end

section
/-! PROOFS. The field units on limbs: the carry pass, the columns of a product, bounds and residues mod p. -/

namespace Sys2Proof.Machine

/-! ### The residue of a field value -/

/-- A field value mod p (R9). -/
def residue (a : Limbs) : ZMod fieldPrime := (limbsVal a : ZMod fieldPrime)

@[simp] theorem cast_limbsVal (a : Limbs) : (limbsVal a : ZMod fieldPrime) = residue a := rfl

theorem congP_limbsVal_iff (a : Limbs) (y : Int) : CongP (limbsVal a) y ↔ residue a = y := by
  rw [CongP, ← ZMod.intCast_eq_intCast_iff, Int.cast_natCast, residue]

/-- Values that differ by a multiple of p have the same residue. -/
theorem cast_eq_of_add_fieldPrime_mul {m n k : Nat} (h : m + fieldPrime * k = n) : (m : ZMod fieldPrime) = n := by
  rw [← h, Nat.cast_add, Nat.cast_mul, ZMod.natCast_self, zero_mul, add_zero]

/-! ### Bounds on limbs (R111) -/

theorem limbAt_lt {n : Nat} {a : Limbs} (h : LimbsBelow n a) {k : Nat} (hk : k < 5) : limbAt a k < n := by
  obtain ⟨h0, h1, h2, h3, h4⟩ := h
  interval_cases k
  exacts [h0, h1, h2, h3, h4]

theorem LimbsBelow.mono {m n : Nat} {a : Limbs} (h : LimbsBelow m a) (hmn : m ≤ n) : LimbsBelow n a := by
  obtain ⟨h0, h1, h2, h3, h4⟩ := h
  exact ⟨h0.trans_le hmn, h1.trans_le hmn, h2.trans_le hmn, h3.trans_le hmn, h4.trans_le hmn⟩

theorem PointInBound.addInBound {a b : Limbs} (ha : PointInBound a) (hb : PointInBound b) : AddInBound a b := by
  obtain ⟨a0, a1, a2, a3, a4⟩ := ha
  obtain ⟨b0, b1, b2, b3, b4⟩ := hb
  refine ⟨⟨?_, ?_, ?_, ?_, ?_⟩, ?_, ?_, ?_, ?_, ?_⟩ <;> omega

theorem PointInBound.subInBound {a b : Limbs} (ha : PointInBound a) (hb : PointInBound b) : SubInBound a b := by
  obtain ⟨hlt, -⟩ := ha.addInBound ha
  obtain ⟨b0, b1, b2, b3, b4⟩ := hb
  refine ⟨hlt, b0, ?_, ?_, ?_, ?_⟩ <;> omega

theorem PointInBound.mulInBound {a : Limbs} (h : PointInBound a) : MulInBound a :=
  LimbsBelow.mono (h.addInBound h).1 (by decide)

/-- The bounds of FMUL's output limbs: only limb 2 can be 2^51 (R114). -/
abbrev MulReduced (a : Limbs) : Prop :=
  a.l0 < 2 ^ 51 ∧ a.l1 < 2 ^ 51 ∧ a.l2 ≤ 2 ^ 51 ∧ a.l3 < 2 ^ 51 ∧ a.l4 < 2 ^ 51

theorem MulReduced.limbAt_le {a : Limbs} (h : MulReduced a) {k : Nat} (hk : k < 5) : limbAt a k ≤ 2 ^ 51 := by
  obtain ⟨h0, h1, h2, h3, h4⟩ := h
  interval_cases k <;> simp only [limbAt] <;> omega

theorem MulReduced.mulInBound {a : Limbs} (h : MulReduced a) : MulInBound a := by
  obtain ⟨h0, h1, h2, h3, h4⟩ := h
  refine ⟨?_, ?_, ?_, ?_, ?_⟩ <;> omega

theorem MulReduced.below {a : Limbs} (h : MulReduced a) : LimbsBelow (2 ^ 64) a :=
  LimbsBelow.mono h.mulInBound (by decide)

theorem MulReduced.pointInBound {a : Limbs} (h : MulReduced a) : PointInBound a := by
  obtain ⟨h0, h1, h2, h3, h4⟩ := h
  refine ⟨?_, ?_, ?_, ?_, ?_⟩ <;> omega

/-! ### The carry pass (R114, R116) -/

section carry

variable (t : Limbs)

theorem carrySums_l0 : (carrySums t).l0 = t.l0 := by simp [carrySums]
theorem carrySums_l1 : (carrySums t).l1 = t.l1 + carry51 (carrySums t).l0 := by simp [carrySums]
theorem carrySums_l2 : (carrySums t).l2 = t.l2 + carry51 (carrySums t).l1 := by simp [carrySums]
theorem carrySums_l3 : (carrySums t).l3 = t.l3 + carry51 (carrySums t).l2 := by simp [carrySums]
theorem carrySums_l4 : (carrySums t).l4 = t.l4 + carry51 (carrySums t).l3 := by simp [carrySums]

/-- FMUL's reduction keeps the value mod p: what is folded back is the final carry times p (R114). -/
theorem limbsVal_mulReduce : limbsVal (mulReduce t) + fieldPrime * carry51 (carrySums t).l4 = limbsVal t := by
  have hpass := carrySums_value t
  simp only [mulReduce, mkLimbs_eq]
  set u := low51 (carrySums t).l0 + 19 * carry51 (carrySums t).l4
  have hu := low51_add_carry51 u
  have hv := low51_add_carry51 (low51 (carrySums t).l1 + carry51 u)
  simp only [limbsVal, fieldPrime] at *
  omega

end carry

/-! ### FMUL's columns (R114) -/

theorem mulColumns_comm (a b : Limbs) : mulColumns a b = mulColumns b a := by
  ext <;> simp only [mulColumns] <;> ring

theorem fieldMul_comm (a b : Limbs) : fieldMul a b = fieldMul b a := by
  rw [fieldMul, mulColumns_comm, fieldMul]

/-- The columns hold the product mod p: the products of degree 5 and above count 19 for 2^255. -/
theorem limbsVal_mulColumns (a b : Limbs) :
    ∃ high, limbsVal (mulColumns a b) + fieldPrime * high = limbsVal a * limbsVal b := by
  refine ⟨(a.l1 * b.l4 + a.l2 * b.l3 + a.l3 * b.l2 + a.l4 * b.l1) +
    (a.l2 * b.l4 + a.l3 * b.l3 + a.l4 * b.l2) * 2 ^ 51 + (a.l3 * b.l4 + a.l4 * b.l3) * 2 ^ 102 +
    a.l4 * b.l4 * 2 ^ 153, ?_⟩
  simp only [limbsVal, mulColumns, fieldPrime]
  ring

theorem mulColumns_le {a b : Limbs} (ha : MulInBound a) (hb : MulInBound b) :
    (mulColumns a b).l0 ≤ 77 * 2 ^ 110 ∧ (mulColumns a b).l1 ≤ 59 * 2 ^ 110 ∧ (mulColumns a b).l2 ≤ 41 * 2 ^ 110 ∧
      (mulColumns a b).l3 ≤ 23 * 2 ^ 110 ∧ (mulColumns a b).l4 ≤ 5 * 2 ^ 110 := by
  obtain ⟨a0, a1, a2, a3, a4⟩ := ha
  obtain ⟨b0, b1, b2, b3, b4⟩ := hb
  have hmul : ∀ {x y : Nat}, x < 2 ^ 55 → y < 2 ^ 55 → x * y ≤ 2 ^ 110 := fun hx hy =>
    (Nat.mul_le_mul hx.le hy.le).trans_eq (pow_add 2 55 55).symm
  refine ⟨?_, ?_, ?_, ?_, ?_⟩
  · have := hmul a0 b0; have := hmul a1 b4; have := hmul a2 b3; have := hmul a3 b2; have := hmul a4 b1
    simp only [mulColumns]; omega
  · have := hmul a0 b1; have := hmul a1 b0; have := hmul a2 b4; have := hmul a3 b3; have := hmul a4 b2
    simp only [mulColumns]; omega
  · have := hmul a0 b2; have := hmul a1 b1; have := hmul a2 b0; have := hmul a3 b4; have := hmul a4 b3
    simp only [mulColumns]; omega
  · have := hmul a0 b3; have := hmul a1 b2; have := hmul a2 b1; have := hmul a3 b0; have := hmul a4 b4
    simp only [mulColumns]; omega
  · have := hmul a0 b4; have := hmul a1 b3; have := hmul a2 b2; have := hmul a3 b1; have := hmul a4 b0
    simp only [mulColumns]; omega

/-! ### Widths at the bound 2^55 (R118) -/

/-- The carry out of a 117-bit sum fits 66 bits. -/
theorem carry51_lt {x : Nat} (h : x < 2 ^ 117) : carry51 x < 2 ^ 66 := by
  rw [carry51_eq_div]
  omega

theorem mulColumns_lt {a b : Limbs} (ha : MulInBound a) (hb : MulInBound b) :
    LimbsBelow (2 ^ 117) (mulColumns a b) := by
  obtain ⟨c0, c1, c2, c3, c4⟩ := mulColumns_le ha hb
  refine ⟨?_, ?_, ?_, ?_, ?_⟩ <;> omega

/-- FMUL's carried sums fit 117 bits, and the last one is far smaller: its column has no factor 19. -/
theorem carrySums_mulColumns_lt {a b : Limbs} (ha : MulInBound a) (hb : MulInBound b) :
    LimbsBelow (2 ^ 117) (carrySums (mulColumns a b)) ∧
      (carrySums (mulColumns a b)).l4 ≤ 5 * 2 ^ 110 + 2 ^ 66 := by
  obtain ⟨c0, c1, c2, c3, c4⟩ := mulColumns_le ha hb
  have s0 := carrySums_l0 (mulColumns a b)
  have s1 := carrySums_l1 (mulColumns a b)
  have s2 := carrySums_l2 (mulColumns a b)
  have s3 := carrySums_l3 (mulColumns a b)
  have s4 := carrySums_l4 (mulColumns a b)
  simp only [carry51_eq_div] at s1 s2 s3 s4
  refine ⟨⟨?_, ?_, ?_, ?_, ?_⟩, ?_⟩ <;> omega

/-- What FMUL folds into limb 0 fits 66 bits. -/
theorem mulFold_lt {a b : Limbs} (ha : MulInBound a) (hb : MulInBound b) :
    low51 (carrySums (mulColumns a b)).l0 + 19 * carry51 (carrySums (mulColumns a b)).l4 < 2 ^ 66 := by
  obtain ⟨-, h4⟩ := carrySums_mulColumns_lt ha hb
  have h0 := low51_lt (carrySums (mulColumns a b)).l0
  rw [carry51_eq_div]
  omega

/-! ### FMUL's result -/

/-- A reduction whose fold value fits 66 bits leaves at most one unit for limb 2. -/
theorem mulReduce_reduced {t : Limbs}
    (h : low51 (carrySums t).l0 + 19 * carry51 (carrySums t).l4 < 2 ^ 66) : MulReduced (mulReduce t) := by
  simp only [mulReduce, mkLimbs_eq]
  generalize low51 (carrySums t).l0 + 19 * carry51 (carrySums t).l4 = u at h ⊢
  have h1 := low51_lt (carrySums t).l1
  have h2 := low51_lt (carrySums t).l2
  refine ⟨low51_lt _, low51_lt _, ?_, low51_lt _, low51_lt _⟩
  simp only [carry51_eq_div]
  omega

theorem fieldMul_reduced {a b : Limbs} (ha : MulInBound a) (hb : MulInBound b) : MulReduced (fieldMul a b) :=
  mulReduce_reduced (mulFold_lt ha hb)

@[simp] theorem residue_fieldMul (a b : Limbs) : residue (fieldMul a b) = residue a * residue b := by
  obtain ⟨high, hcolumns⟩ := limbsVal_mulColumns a b
  rw [residue, fieldMul, cast_eq_of_add_fieldPrime_mul (limbsVal_mulReduce _),
    cast_eq_of_add_fieldPrime_mul hcolumns, Nat.cast_mul, residue, residue]

/-! ### FSQR's result (R115) -/

theorem fieldSq_reduced {x : Limbs} (hx : MulInBound x) : MulReduced (fieldSq x) := fieldMul_reduced hx hx

@[simp] theorem residue_fieldSq (x : Limbs) : residue (fieldSq x) = residue x ^ 2 := by
  rw [fieldSq, residue_fieldMul, pow_two]

theorem fieldSqTimes_eq_iterate (n : Nat) (x : Limbs) : fieldSqTimes n x = (fun x => fieldMul x x)^[n] x := by
  induction n generalizing x with
  | zero => rfl
  | succ n ih => rw [fieldSqTimes_succ, ih, Function.iterate_succ_apply]

@[simp] theorem residue_fieldSqTimes (n : Nat) (x : Limbs) : residue (fieldSqTimes n x) = residue x ^ 2 ^ n := by
  induction n generalizing x with
  | zero => rw [fieldSqTimes_zero, pow_zero, pow_one]
  | succ n ih => rw [fieldSqTimes_succ, ih, residue_fieldMul, ← pow_two, ← pow_mul, pow_succ']

theorem fieldSqTimes_reduced {n : Nat} {x : Limbs} (hn : n ≠ 0) (hx : MulInBound x) :
    MulReduced (fieldSqTimes n x) := by
  induction n generalizing x with
  | zero => exact absurd rfl hn
  | succ n ih =>
    have hsq := fieldMul_reduced hx hx
    rw [fieldSqTimes_succ]
    cases n with
    | zero => exact hsq
    | succ n => exact ih (Nat.succ_ne_zero n) hsq.mulInBound

/-! ### FMULA24's result (R116) -/

/-- The columns of FMULA24: every limb times 121665. -/
def mulA24Columns (a : Limbs) : Limbs :=
  ⟨a.l0 * 121665, a.l1 * 121665, a.l2 * 121665, a.l3 * 121665, a.l4 * 121665⟩

theorem fieldMulA24_eq (a : Limbs) :
    fieldMulA24 a = ⟨low51 (carrySums (mulA24Columns a)).l0 + 19 * carry51 (carrySums (mulA24Columns a)).l4,
      low51 (carrySums (mulA24Columns a)).l1, low51 (carrySums (mulA24Columns a)).l2,
      low51 (carrySums (mulA24Columns a)).l3, low51 (carrySums (mulA24Columns a)).l4⟩ :=
  mkLimbs_eq _ _ _ _ _

theorem carrySums_mulA24Columns_lt {a : Limbs} (ha : MulInBound a) :
    LimbsBelow (2 ^ 73) (carrySums (mulA24Columns a)) ∧
      (carrySums (mulA24Columns a)).l4 ≤ 121665 * 2 ^ 55 + 2 ^ 22 := by
  obtain ⟨a0, a1, a2, a3, a4⟩ := ha
  have s0 := carrySums_l0 (mulA24Columns a)
  have s1 := carrySums_l1 (mulA24Columns a)
  have s2 := carrySums_l2 (mulA24Columns a)
  have s3 := carrySums_l3 (mulA24Columns a)
  have s4 := carrySums_l4 (mulA24Columns a)
  simp only [carry51_eq_div, mulA24Columns] at *
  refine ⟨⟨?_, ?_, ?_, ?_, ?_⟩, ?_⟩ <;> omega

theorem fieldMulA24_bounds {a : Limbs} (ha : MulInBound a) :
    (fieldMulA24 a).l0 < 2 ^ 51 + 2 ^ 26 ∧ (fieldMulA24 a).l1 < 2 ^ 51 ∧ (fieldMulA24 a).l2 < 2 ^ 51 ∧
      (fieldMulA24 a).l3 < 2 ^ 51 ∧ (fieldMulA24 a).l4 < 2 ^ 51 := by
  obtain ⟨-, h4⟩ := carrySums_mulA24Columns_lt ha
  have h0 := low51_lt (carrySums (mulA24Columns a)).l0
  rw [fieldMulA24_eq]
  refine ⟨?_, low51_lt _, low51_lt _, low51_lt _, low51_lt _⟩
  simp only [carry51_eq_div]
  omega

/-- FMULA24 keeps 121665 times the value mod p: what is folded back is the final carry times p. -/
theorem limbsVal_fieldMulA24 (a : Limbs) :
    limbsVal (fieldMulA24 a) + fieldPrime * carry51 (carrySums (mulA24Columns a)).l4 = 121665 * limbsVal a := by
  have hpass := carrySums_value (mulA24Columns a)
  have hscale : limbsVal (mulA24Columns a) = 121665 * limbsVal a := by
    simp only [limbsVal, mulA24Columns]; ring
  rw [fieldMulA24_eq]
  simp only [limbsVal, fieldPrime] at *
  omega

@[simp] theorem residue_fieldMulA24 (a : Limbs) : residue (fieldMulA24 a) = 121665 * residue a := by
  rw [residue, cast_eq_of_add_fieldPrime_mul (limbsVal_fieldMulA24 a), Nat.cast_mul, Nat.cast_ofNat, residue]

/-! ### FADD's and FSUB's results (R112, R113) -/

theorem limbAt_fieldAdd (a b : Limbs) {k : Nat} (hk : k < 5) :
    limbAt (fieldAdd a b) k = limbAt a k + limbAt b k := by
  rw [fieldAdd_eq]
  interval_cases k <;> rfl

theorem limbsVal_fieldAdd (a b : Limbs) : limbsVal (fieldAdd a b) = limbsVal a + limbsVal b := by
  rw [fieldAdd_eq]
  simp only [limbsVal]
  ring

theorem fieldAdd_lt {a b : Limbs} (h : AddInBound a b) : LimbsBelow (2 ^ 55) (fieldAdd a b) := by
  obtain ⟨⟨a0, a1, a2, a3, a4⟩, b0, b1, b2, b3, b4⟩ := h
  rw [fieldAdd_eq]
  refine ⟨?_, ?_, ?_, ?_, ?_⟩ <;> simp only <;> omega

@[simp] theorem residue_fieldAdd (a b : Limbs) : residue (fieldAdd a b) = residue a + residue b := by
  rw [residue, limbsVal_fieldAdd, Nat.cast_add, residue, residue]

/-- In bound no limb of the difference is cut off at 0. -/
theorem limbAt_fieldSub {a b : Limbs} (h : SubInBound a b) {k : Nat} (hk : k < 5) :
    limbAt (fieldSub a b) k + limbAt b k = limbAt a k + (if k = 0 then 2 ^ 54 - 152 else 2 ^ 54 - 8) := by
  obtain ⟨-, b0, b1, b2, b3, b4⟩ := h
  rw [fieldSub_eq]
  interval_cases k <;> simp [limbAt] <;> omega

theorem limbsVal_fieldSub {a b : Limbs} (h : SubInBound a b) :
    limbsVal (fieldSub a b) + limbsVal b = limbsVal a + 8 * fieldPrime := by
  obtain ⟨-, b0, b1, b2, b3, b4⟩ := h
  rw [fieldSub_eq]
  simp only [limbsVal, fieldPrime]
  omega

theorem fieldSub_lt {a b : Limbs} (h : SubInBound a b) : LimbsBelow (2 ^ 55) (fieldSub a b) := by
  obtain ⟨⟨a0, a1, a2, a3, a4⟩, -⟩ := h
  rw [fieldSub_eq]
  refine ⟨?_, ?_, ?_, ?_, ?_⟩ <;> simp only <;> omega

theorem residue_fieldSub {a b : Limbs} (h : SubInBound a b) : residue (fieldSub a b) = residue a - residue b := by
  have hcast := congrArg (Nat.cast (R := ZMod fieldPrime)) (limbsVal_fieldSub h)
  rw [Nat.cast_add, Nat.cast_add, Nat.cast_mul, ZMod.natCast_self, mul_zero, add_zero] at hcast
  exact eq_sub_of_add_eq hcast

/-! ### The congruence laws (R117) -/

theorem fieldAdd_congP (a b : Limbs) : CongP (limbsVal (fieldAdd a b)) (limbsVal a + limbsVal b) := by
  simp [congP_limbsVal_iff]

theorem fieldSub_congP {a b : Limbs} (h : SubInBound a b) :
    CongP (limbsVal (fieldSub a b)) (limbsVal a - limbsVal b) := by
  simp [congP_limbsVal_iff, residue_fieldSub h]

theorem fieldMul_congP (a b : Limbs) : CongP (limbsVal (fieldMul a b)) (limbsVal a * limbsVal b) := by
  simp [congP_limbsVal_iff]

theorem fieldSqTimes_congP (n : Nat) (a : Limbs) : CongP (limbsVal (fieldSqTimes n a)) (limbsVal a ^ 2 ^ n) := by
  simp [congP_limbsVal_iff]

theorem fieldMulA24_congP (a : Limbs) : CongP (limbsVal (fieldMulA24 a)) (121665 * limbsVal a) := by
  simp [congP_limbsVal_iff]

/-! ### The loops of R114 and R116 -/

theorem columnByLoops_eq (a b : Limbs) {k : Nat} (hk : k < 5) :
    columnByLoops a b k = limbAt (mulColumns a b) k := by
  interval_cases k <;> simp [columnByLoops, List.range_succ, limbAt, mulColumns] <;> ring

/-- The carry loop gives the masked sums of a carry pass and its final carry. -/
theorem carryByLoop_eq {t : Nat → Nat} {c : Limbs} (h : ∀ k, k < 5 → t k = limbAt c k) :
    carryByLoop t (List.range 5) 0 = ((limbList (carrySums c)).map low51, carry51 (carrySums c).l4) := by
  have h0 := h 0 (by decide)
  have h1 := h 1 (by decide)
  have h2 := h 2 (by decide)
  have h3 := h 3 (by decide)
  have h4 := h 4 (by decide)
  simp [carryByLoop, List.range_succ, limbList, limbAt, low51_eq_mod, carry51_eq_div, carrySums, h0, h1, h2, h3, h4]

theorem mulByLoops_eq (a b : Limbs) : mulByLoops a b = limbList (fieldMul a b) := by
  rw [mulByLoops, carryByLoop_eq fun k hk => columnByLoops_eq a b hk]
  simp [limbList, fieldMul, mulReduce, low51_eq_mod, carry51_eq_div]

theorem mulA24ByLoop_eq (a : Limbs) : mulA24ByLoop a = limbList (fieldMulA24 a) := by
  have hcolumns : ∀ k, k < 5 → limbAt a k * 121665 = limbAt (mulA24Columns a) k := fun k hk => by
    interval_cases k <;> rfl
  rw [mulA24ByLoop, carryByLoop_eq hcolumns, fieldMulA24_eq]
  rfl

end Sys2Proof.Machine
end

section
/-! PROOFS. The field micro-ops: in bound the result in F[rd], out of bound one draw, and the ladder step. -/

namespace Sys2Proof.Machine

/-! ### In bound and out of bound (R110, R111) -/

section fieldOps

variable {rd ra rb : FReg} {count : BitVec 12} {s : State}

theorem exec_fadd_inBound (h : AddInBound (fieldOf s ra) (fieldOf s rb)) :
    exec (.fadd rd ra rb) s = .next (writeF s rd (limbsReg (fieldAdd (fieldOf s ra) (fieldOf s rb)))) :=
  congrArg _ (if_pos h)

theorem exec_fsub_inBound (h : SubInBound (fieldOf s ra) (fieldOf s rb)) :
    exec (.fsub rd ra rb) s = .next (writeF s rd (limbsReg (fieldSub (fieldOf s ra) (fieldOf s rb)))) :=
  congrArg _ (if_pos h)

theorem exec_fmul_inBound (h : MulInBound (fieldOf s ra) ∧ MulInBound (fieldOf s rb)) :
    exec (.fmul rd ra rb) s = .next (writeF s rd (limbsReg (fieldMul (fieldOf s ra) (fieldOf s rb)))) :=
  congrArg _ (if_pos h)

theorem exec_fmul_outOfBound (h : ¬ (MulInBound (fieldOf s ra) ∧ MulInBound (fieldOf s rb))) :
    exec (.fmul rd ra rb) s = .next (writeOob s rd) :=
  congrArg _ (if_neg h)

theorem exec_fsqr_inBound (hc : count ≠ 0) (h : MulInBound (fieldOf s ra)) :
    exec (.fsqr rd ra count) s = .next (writeF s rd (limbsReg (fieldSqTimes count.toNat (fieldOf s ra)))) :=
  (if_neg hc).trans (congrArg _ (if_pos h))

theorem exec_fsqr_outOfBound (hc : count ≠ 0) (h : ¬ MulInBound (fieldOf s ra)) :
    exec (.fsqr rd ra count) s = .next (writeOob s rd) :=
  (if_neg hc).trans (congrArg _ (if_neg h))

theorem exec_fmula24_inBound (h : MulInBound (fieldOf s ra)) :
    exec (.fmula24 rd ra) s = .next (writeF s rd (limbsReg (fieldMulA24 (fieldOf s ra)))) :=
  congrArg _ (if_pos h)

end fieldOps

/-- What an instruction that writes limbs below 2^55 to F[rd] leaves: exactly these limbs, and nothing else
changed (log 15). -/
theorem exec_writes_limbs {i : Instr} {rd : FReg} {s : State} {v : Limbs}
    (h : exec i s = .next (writeF s rd (limbsReg v))) (hv : LimbsBelow (2 ^ 55) v) :
    ∃ t, exec i s = .next t ∧ fieldOf t rd = v ∧ OnlyFieldRegs [rd] s t :=
  ⟨_, h, fieldOf_writeF_self s rd (hv.mono (by decide)), writeF_onlyFieldRegs s rd _⟩

/-! ### F0 to F3 -/

theorem writePoints_onlyFieldRegs (s : State) (p : PointPair) : OnlyFieldRegs [0, 1, 2, 3] s (writePoints s p) :=
  onlyFieldRegs_trans (onlyFieldRegs_trans (onlyFieldRegs_trans (writeF_onlyFieldRegs _ _ _)
    (writeF_onlyFieldRegs _ _ _)) (writeF_onlyFieldRegs _ _ _)) (writeF_onlyFieldRegs _ _ _)

/-- Points whose limbs fit 64 bits are read back as they were written (R21). -/
theorem readPoints_writePoints (s : State) {p : PointPair} (h0 : LimbsBelow (2 ^ 64) p.nqx)
    (h1 : LimbsBelow (2 ^ 64) p.nqz) (h2 : LimbsBelow (2 ^ 64) p.nqpqx) (h3 : LimbsBelow (2 ^ 64) p.nqpqz) :
    readPoints (writePoints s p) = p := by
  simp [readPoints, writePoints, fieldOf, readF_writeF, regLimbs_limbsReg h0, regLimbs_limbsReg h1,
    regLimbs_limbsReg h2, regLimbs_limbsReg h3]

theorem onlyFieldRegsDrawing_trans {d e : List FReg} {m n : Nat} {s t u : State} (h : OnlyFieldRegsDrawing m d s t)
    (g : OnlyFieldRegsDrawing n e t u) : OnlyFieldRegsDrawing (m + n) (d ++ e) s u := by
  obtain ⟨ht, hr⟩ := h
  obtain ⟨hu, gr⟩ := g
  refine ⟨?_, fun r hm => ?_⟩
  · rw [hu, ht, Nat.add_assoc]
  · rw [List.mem_append, not_or] at hm
    rw [gr r hm.2, hr r hm.1]

theorem writePointsOob_onlyFieldRegs (s : State) : OnlyFieldRegsDrawing 4 [0, 1, 2, 3] s (writePointsOob s) :=
  onlyFieldRegsDrawing_trans (onlyFieldRegsDrawing_trans (onlyFieldRegsDrawing_trans (writeOob_onlyFieldRegs _ _)
    (writeOob_onlyFieldRegs _ _)) (writeOob_onlyFieldRegs _ _)) (writeOob_onlyFieldRegs _ _)

/-- F0 to F3 hold four draws, numbered in their order. -/
theorem readF_writePointsOob (s : State) {r : FReg} (h : r.val < 4) :
    readF (writePointsOob s) r = oobReg (s.oobDraws + r.val) := by
  obtain ⟨n, hn⟩ := r
  simp only at h
  interval_cases n <;> simp [writePointsOob, readF_writeOob]

/-! ### The ladder step (R171, R172) -/

theorem PointInBound.fieldAdd_mulInBound {a b : Limbs} (ha : PointInBound a) (hb : PointInBound b) :
    MulInBound (fieldAdd a b) := fieldAdd_lt (ha.addInBound hb)

theorem PointInBound.fieldSub_mulInBound {a b : Limbs} (ha : PointInBound a) (hb : PointInBound b) :
    MulInBound (fieldSub a b) := fieldSub_lt (ha.subInBound hb)

theorem fieldMulA24_pointInBound {a : Limbs} (h : MulInBound a) : PointInBound (fieldMulA24 a) := by
  obtain ⟨h0, h1, h2, h3, h4⟩ := fieldMulA24_bounds h
  refine ⟨?_, ?_, ?_, ?_, ?_⟩ <;> omega

/-- Every coordinate has the bounds of a multiply's output. -/
def PointsReduced (p : PointPair) : Prop :=
  MulReduced p.nqx ∧ MulReduced p.nqz ∧ MulReduced p.nqpqx ∧ MulReduced p.nqpqz

/-- Every coordinate is congruent to the integer one. -/
def PointsCongP (p : PointPair) (v : IntPoints) : Prop :=
  CongP (limbsVal p.nqx) v.x ∧ CongP (limbsVal p.nqz) v.z ∧ CongP (limbsVal p.nqpqx) v.x' ∧
    CongP (limbsVal p.nqpqz) v.z'

theorem PointsReduced.stepInBound {p : PointPair} {q : Limbs} (h : PointsReduced p) (hq : MulInBound q) :
    StepInBound p q := by
  obtain ⟨h0, h1, h2, h3⟩ := h
  exact ⟨h0.pointInBound, h1.pointInBound, h2.pointInBound, h3.pointInBound, hq⟩

theorem PointsReduced.fieldOf {s : State} (h : PointsReduced (readPoints s)) {r : FReg} (hr : r.val < 4) :
    MulReduced (fieldOf s r) := by
  obtain ⟨h0, h1, h2, h3⟩ := h
  obtain ⟨n, hn⟩ := r
  simp only at hr
  interval_cases n
  exacts [h0, h1, h2, h3]

theorem readPoints_congP (s : State) : PointsCongP (readPoints s) ⟨valOf s 0, valOf s 1, valOf s 2, valOf s 3⟩ :=
  ⟨.refl _, .refl _, .refl _, .refl _⟩

theorem readPoints_writePoints_of_reduced (s : State) {p : PointPair} (h : PointsReduced p) :
    readPoints (writePoints s p) = p := by
  obtain ⟨h0, h1, h2, h3⟩ := h
  exact readPoints_writePoints s h0.below h1.below h2.below h3.below

/-- In bound every line of the ladder step stays in bound, so that each keeps its formula mod p and the step's
precondition holds again. -/
theorem ladderStep_spec {p : PointPair} {q : Limbs} {v : IntPoints} {c : Int} (h : StepInBound p q)
    (hv : PointsCongP p v) (hc : CongP (limbsVal q) c) :
    PointsReduced (ladderStep q p) ∧ PointsCongP (ladderStep q p) (intStep c v) := by
  obtain ⟨hx, hz, hx', hz', hq⟩ := h
  have hA := hx.fieldAdd_mulInBound hz
  have hB := hx.fieldSub_mulInBound hz
  have hC := hx'.fieldAdd_mulInBound hz'
  have hD := hx'.fieldSub_mulInBound hz'
  have hDA := (fieldMul_reduced hC hB).pointInBound
  have hCB := (fieldMul_reduced hA hD).pointInBound
  have hAA := fieldSq_reduced hA
  have hBB := fieldSq_reduced hB
  have hE := hAA.pointInBound.fieldSub_mulInBound hBB.pointInBound
  have hH := (fieldMulA24_pointInBound hE).fieldAdd_mulInBound hAA.pointInBound
  have hS := hDA.fieldAdd_mulInBound hCB
  have hTT := fieldSq_reduced (hDA.fieldSub_mulInBound hCB)
  refine ⟨⟨fieldMul_reduced hAA.mulInBound hBB.mulInBound, fieldMul_reduced hE hH, fieldSq_reduced hS,
    fieldMul_reduced hTT.mulInBound hq⟩, ?_⟩
  have subB := residue_fieldSub (hx.subInBound hz)
  have subD := residue_fieldSub (hx'.subInBound hz')
  have subT := residue_fieldSub (hDA.subInBound hCB)
  have subE := residue_fieldSub (hAA.pointInBound.subInBound hBB.pointInBound)
  simp only [PointsCongP, congP_limbsVal_iff] at hv hc ⊢
  obtain ⟨v0, v1, v2, v3⟩ := hv
  refine ⟨?_, ?_, ?_, ?_⟩ <;> simp [ladderStep, intStep, subB, subD, subT, subE, v0, v1, v2, v3, hc] <;> ring

end Sys2Proof.Machine
end

section
/-! PROOFS. Every instruction completes. -/

namespace Sys2Proof.Machine

/-- A term without an encoding takes its word's error (R87; log 10). -/
theorem exec_illFormed {i : Instr} (hw : i.wellFormed = false) (s : State) :
    exec i s = .next (takeCmdError .badOperand s) := by
  cases i with
  | fsqr rd ra count => exact if_pos (by simpa [Instr.wellFormed] using hw)
  | cswap ra rb bit => exact if_neg (Bool.eq_false_iff.1 hw)
  | _ => cases hw

/-- Every instruction ends in a next state, as a micro-op or as a command's completion. -/
theorem exec_completes (i : Instr) (s : State) :
    ∃ t, exec i s = .next t ∧ (MicroOpEffect s t ∨ CommandCompletes s t) := by
  cases hu : isUop i with
  | true =>
    cases hw : i.wellFormed with
    | true =>
      obtain ⟨t, ht, he⟩ := exec_uop_effect hu hw s
      exact ⟨t, ht, .inl he⟩
    | false => exact ⟨_, exec_illFormed hw s, .inr ⟨s, .refl s, .inr ⟨_, rfl⟩⟩⟩
  | false =>
    cases i with
    | derive =>
      obtain ⟨t, ht, hc⟩ := execDerive_completes s
      exact ⟨t, ht, .inr hc⟩
    | execUop =>
      obtain ⟨t, ht, hc⟩ := execExecUop_completes s
      exact ⟨t, ht, .inr hc⟩
    | _ => cases hu

end Sys2Proof.Machine
end

section
/-! PROOFS. The statements about field arithmetic, settled from the lemmas above. -/

open Sys2Proof Sys2Proof.Machine

/-- Settles O6: the result is the limb sums. -/
theorem faddAddsLimbwise : Obligations.FaddAddsLimbwise := by
  intro rd ra rb s h
  have hlt := fieldAdd_lt h
  obtain ⟨t, ht, hv, hframe⟩ := exec_writes_limbs (exec_fadd_inBound (rd := rd) h) hlt
  rw [← hv] at hlt
  refine ⟨t, ht, fun k hk => ?_, hlt, ?_, hframe⟩
  · rw [hv]; exact limbAt_fieldAdd _ _ hk
  · rw [valOf, hv]; exact limbsVal_fieldAdd _ _

/-- Settles O7: in bound the bias keeps every limb of the difference at least 0. -/
theorem fsubSubtractsWithBias : Obligations.FsubSubtractsWithBias := by
  intro rd ra rb s h
  have hlt := fieldSub_lt h
  obtain ⟨t, ht, hv, hframe⟩ := exec_writes_limbs (exec_fsub_inBound (rd := rd) h) hlt
  rw [← hv] at hlt
  refine ⟨t, ht, fun k hk => ?_, hlt, ?_, hframe⟩
  · rw [hv]; exact limbAt_fieldSub h hk
  · rw [valOf, hv]; exact limbsVal_fieldSub h

/-- Settles O8, by the loops, the bounds and the residue of a multiply. -/
theorem fmulMultipliesInBound : Obligations.FmulMultipliesInBound := by
  intro rd ra rb s ha hb
  have hreduced := fieldMul_reduced ha hb
  obtain ⟨t, ht, hv, hframe⟩ := exec_writes_limbs (exec_fmul_inBound (rd := rd) ⟨ha, hb⟩) hreduced.mulInBound
  rw [← hv] at hreduced
  obtain ⟨h0, h1, h2, h3, h4⟩ := hreduced
  refine ⟨t, ht, by rw [hv, mulByLoops_eq], h0, h1, h2, h3, h4, ?_, hframe⟩
  rw [valOf, hv]
  exact fieldMul_congP _ _

/-- Settles O9: the columns are symmetric, and out of bound both runs draw the same value. -/
theorem fmulIsSymmetricAndSquares : Obligations.FmulIsSymmetricAndSquares := by
  refine ⟨fieldMul_comm, fun rd ra rb s => ⟨?_, ?_⟩⟩
  · by_cases h : MulInBound (fieldOf s ra) ∧ MulInBound (fieldOf s rb)
    · rw [exec_fmul_inBound h, exec_fmul_inBound h.symm, fieldMul_comm]
    · rw [exec_fmul_outOfBound h, exec_fmul_outOfBound (mt And.symm h)]
  · by_cases h : MulInBound (fieldOf s ra)
    · rw [exec_fsqr_inBound (by decide) h, exec_fmul_inBound ⟨h, h⟩]; rfl
    · rw [exec_fsqr_outOfBound (by decide) h, exec_fmul_outOfBound fun ⟨hx, _⟩ => h hx]

/-- Settles O10, by iterating the multiply. -/
theorem fsqrSquaresCountTimes : Obligations.FsqrSquaresCountTimes := by
  intro rd ra count s hc ha
  have hn : count.toNat ≠ 0 := fun e => hc (BitVec.eq_of_toNat_eq e)
  have hreduced := fieldSqTimes_reduced hn ha
  obtain ⟨t, ht, hv, hframe⟩ := exec_writes_limbs (exec_fsqr_inBound (rd := rd) hc ha) hreduced.mulInBound
  rw [← hv] at hreduced
  obtain ⟨h0, h1, h2, h3, h4⟩ := hreduced
  refine ⟨t, ht, by rw [hv, fieldSqTimes_eq_iterate], h0, h1, h2, h3, h4, ?_, hframe⟩
  rw [valOf, hv]
  exact fieldSqTimes_congP _ _

/-- Settles O11, by the loop, the bounds and the residue of the product with 121665. -/
theorem fmulA24MultipliesBy121665 : Obligations.FmulA24MultipliesBy121665 := by
  intro rd ra s ha
  have hbounds := fieldMulA24_bounds ha
  obtain ⟨t, ht, hv, hframe⟩ := exec_writes_limbs (exec_fmula24_inBound (rd := rd) ha)
    (fieldMulA24_pointInBound ha).mulInBound
  rw [← hv] at hbounds
  obtain ⟨h0, h1, h2, h3, h4⟩ := hbounds
  refine ⟨t, ht, by rw [hv, mulA24ByLoop_eq], h0, h1, h2, h3, h4, ?_, hframe⟩
  rw [valOf, hv]
  exact fieldMulA24_congP _

/-- Settles O12, by the residues. -/
theorem fieldCongruenceLaws : Obligations.FieldCongruenceLaws := by
  intro a b n
  exact ⟨fun _ => fieldAdd_congP a b, fieldSub_congP, fun _ _ => fieldMul_congP a b,
    fun _ => fieldSqTimes_congP n a, fun _ => fieldMulA24_congP a⟩

/-- Settles O13, from the sizes of the columns. -/
theorem datapathWidthsSuffice : Obligations.DatapathWidthsSuffice := by
  intro a b ha hb
  obtain ⟨hsums, -⟩ := carrySums_mulColumns_lt ha hb
  obtain ⟨hsumsA24, -⟩ := carrySums_mulA24Columns_lt ha
  exact ⟨mulColumns_lt ha hb, hsums, fun k hk => carry51_lt (limbAt_lt hsums hk), mulFold_lt ha hb,
    hsumsA24⟩

/-- Settles O14: each of the six is one draw into F[rd]. -/
theorem outOfBoundWritesOneDraw : Obligations.OutOfBoundWritesOneDraw := by
  intro rd ra rb count i s h
  have hdraw : exec i s = .next (writeOob s rd) := by
    rcases h with ⟨rfl, h⟩ | ⟨rfl, h⟩ | ⟨rfl, h⟩ | ⟨rfl, hc, h⟩ | ⟨rfl, h⟩ | ⟨rfl, h⟩
    · exact congrArg _ (if_neg h)
    · exact congrArg _ (if_neg h)
    · exact exec_fmul_outOfBound h
    · exact exec_fsqr_outOfBound hc h
    · exact congrArg _ (if_neg h)
    · exact congrArg _ (if_neg h)
  exact ⟨_, hdraw, by simp [readF_writeOob], writeOob_onlyFieldRegs s rd⟩

/-- Settles O15: both are four draws into F0 to F3. -/
theorem outOfBoundLadderDrawsF0ToF3 : Obligations.OutOfBoundLadderDrawsF0ToF3 := by
  intro i s h
  have hdraw : exec i s = .next (writePointsOob s) := by
    rcases h with ⟨rfl, h⟩ | ⟨rfl, h⟩ <;> exact congrArg _ (if_neg h)
  exact ⟨_, hdraw, fun r hr => readF_writePointsOob s hr, writePointsOob_onlyFieldRegs s⟩

/-- Settles O24, by the ladder step's bounds and formulas, which the registers give back. -/
theorem lstepComputesLadderFormulas : Obligations.LstepComputesLadderFormulas := by
  intro s h
  have ⟨_, _, _, _, hq⟩ := h
  obtain ⟨hreduced, hcong⟩ := ladderStep_spec h (readPoints_congP s) (Int.ModEq.refl _)
  have ht : exec .lstep s = .next (writePoints s (ladderStep (fieldOf s 4) (readPoints s))) :=
    congrArg _ (if_pos h)
  have hframe := writePoints_onlyFieldRegs s (ladderStep (fieldOf s 4) (readPoints s))
  have hp := readPoints_writePoints_of_reduced s hreduced
  generalize writePoints s (ladderStep (fieldOf s 4) (readPoints s)) = t at ht hframe hp
  have ⟨_, hkept⟩ := hframe
  have h4 : fieldOf t 4 = fieldOf s 4 := congrArg regLimbs (hkept 4 (by decide))
  rw [← hp] at hreduced
  refine ⟨t, ht, ?_, ?_, fun r hr k hk => (hreduced.fieldOf hr).limbAt_le hk, ?_, hframe⟩
  · exact ⟨congrArg PointPair.nqx hp, congrArg PointPair.nqz hp, congrArg PointPair.nqpqx hp,
      congrArg PointPair.nqpqz hp⟩
  · rw [← hp] at hcong
    exact hcong
  · rw [h4]
    exact hreduced.stepInBound hq

/-- Settles O54, by the two ways an instruction completes. -/
theorem everyInstructionCompletes : Obligations.EveryInstructionCompletes := by
  intro i s
  obtain ⟨t, ht, ⟨hu, -⟩ | ⟨u, ⟨hu, -⟩, rfl | ⟨c, rfl⟩⟩⟩ := exec_completes i s <;>
    refine ⟨_, ht, ?_⟩ <;> rw [hu] <;> exact ⟨rfl, rfl, rfl, rfl, rfl, rfl, rfl, rfl, rfl, rfl⟩
end

section
/-! PROOFS. Encode, decode and clamp: what expand, the contract passes and a buffer's bytes are as quotients and
remainders. -/

namespace Sys2Proof.Machine

/-! ### Expand (R140) -/

theorem limbAt_expand (n : Nat) {k : Nat} (hk : k < 5) : limbAt (expand n) k = n / 2 ^ (51 * k) % 2 ^ 51 := by
  rw [expand_eq]
  interval_cases k <;> simp [limbAt]

theorem expand_lt (n : Nat) : LimbsBelow (2 ^ 51) (expand n) := by
  have hlt : ∀ x : Nat, x % 2 ^ 51 < 2 ^ 51 := fun x => Nat.mod_lt x (by decide)
  rw [expand_eq]
  exact ⟨hlt _, hlt _, hlt _, hlt _, hlt _⟩

theorem limbsVal_expand (n : Nat) : limbsVal (expand n) = n % 2 ^ 255 := by
  rw [expand_eq]
  simp only [limbsVal]
  omega

/-! ### The contract passes (R142) -/

section contract

variable (t : Limbs)

/-- A carry pass cuts the value at bit 255: the masked sums are what is below. -/
theorem limbsVal_contractCarry_drop : limbsVal (contractCarry false t) = limbsVal t % 2 ^ 255 := by
  have hpass := carrySums_value t
  have h0 := low51_lt (carrySums t).l0; have h1 := low51_lt (carrySums t).l1; have h2 := low51_lt (carrySums t).l2
  have h3 := low51_lt (carrySums t).l3; have h4 := low51_lt (carrySums t).l4
  simp only [contractCarry, mkLimbs_eq, Bool.false_eq_true, if_false]
  rw [← hpass]
  simp only [limbsVal]
  omega

/-- The pass that folds adds 19 times what is above bit 255. -/
theorem limbsVal_contractCarry_fold :
    limbsVal (contractCarry true t) = limbsVal t % 2 ^ 255 + 19 * (limbsVal t / 2 ^ 255) := by
  have hpass := carrySums_value t
  have hdrop := limbsVal_contractCarry_drop t
  simp only [contractCarry, mkLimbs_eq, Bool.false_eq_true, if_false, if_true, limbsVal] at *
  omega

/-- What a folding pass drops is a multiple of p. -/
theorem limbsVal_contractCarry_fold_mod : limbsVal (contractCarry true t) % fieldPrime = limbsVal t % fieldPrime := by
  have hmultiple : limbsVal t = limbsVal (contractCarry true t) + fieldPrime * (limbsVal t / 2 ^ 255) := by
    rw [limbsVal_contractCarry_fold, fieldPrime]
    omega
  rw [hmultiple, Nat.add_mul_mod_self_left]

end contract

theorem limbsVal_lt {a : Limbs} (h : LimbsBelow (2 ^ 64) a) : limbsVal a < 2 ^ 269 := by
  obtain ⟨h0, h1, h2, h3, h4⟩ := h
  simp only [limbsVal]
  omega

/-- Two folding passes bring the value of any 64-bit limbs below 2^255. -/
theorem limbsVal_contractCarry_fold_fold_lt {a : Limbs} (h : LimbsBelow (2 ^ 64) a) :
    limbsVal (contractCarry true (contractCarry true a)) < 2 ^ 255 := by
  have hlt := limbsVal_lt h
  rw [limbsVal_contractCarry_fold, limbsVal_contractCarry_fold]
  omega

/-- Below 2^255, folding with an offset of 19 and cutting the sum with p at bit 255 subtracts p at most once. -/
theorem fold_offset_cut_eq_mod {x : Nat} (hx : x < 2 ^ 255) :
    ((x + 19) % 2 ^ 255 + 19 * ((x + 19) / 2 ^ 255) + fieldPrime) % 2 ^ 255 = x % fieldPrime := by
  have hp : fieldPrime + 19 = 2 ^ 255 := by decide
  rcases Nat.lt_or_ge x fieldPrime with hlt | hge
  · have hbelow : x + 19 < 2 ^ 255 := by omega
    rw [Nat.mod_eq_of_lt hbelow, Nat.div_eq_of_lt hbelow, Nat.mod_eq_of_lt hlt]
    omega
  · obtain ⟨r, rfl⟩ := Nat.exists_eq_add_of_le hge
    have hr : r < 2 ^ 255 := by omega
    have hover : fieldPrime + r + 19 = 2 ^ 255 + r := by omega
    rw [hover, Nat.add_mod_left, Nat.mod_eq_of_lt hr, Nat.add_div_left _ (by decide), Nat.div_eq_of_lt hr,
      Nat.add_mod_left, Nat.mod_eq_of_lt (show r < fieldPrime by omega)]
    omega

theorem contractByPasses_eq {a : Limbs} (h : LimbsBelow (2 ^ 64) a) :
    contractByPasses a = limbsVal a % fieldPrime := by
  have hlt := limbsVal_contractCarry_fold_fold_lt h
  rw [contractByPasses, limbsVal_contractCarry_drop, ← limbsVal_contractCarry_fold_mod a,
    ← limbsVal_contractCarry_fold_mod (contractCarry true a)]
  generalize contractCarry true (contractCarry true a) = t at hlt
  have hfold := limbsVal_contractCarry_fold { t with l0 := t.l0 + 19 }
  have hoffset : limbsVal { t with l0 := t.l0 + 19 } = limbsVal t + 19 := by simp only [limbsVal]; omega
  rw [hoffset] at hfold
  rw [← fold_offset_cut_eq_mod hlt, ← hfold]
  simp only [limbsVal, fieldPrime]
  omega

/-! ### Bytes of a buffer (R53, R54) -/

/-- Byte j of a buffer, cut out of its integer. -/
theorem bufferByte_toNat (b : Buffer) (j : Fin 32) :
    (bufferByte b j).toNat = bufferVal b / 2 ^ (8 * j.val) % 2 ^ 8 := by
  obtain ⟨w, i, hj⟩ : ∃ (w : Fin 8) (i : Fin 4), j.val = 4 * w.val + i.val :=
    ⟨⟨j.val / 4, by omega⟩, ⟨j.val % 4, by omega⟩, by simp only; omega⟩
  have hshift : 8 * j.val = 32 * w.val + 8 * i.val := by omega
  have hcut : 2 ^ 8 ∣ 2 ^ (32 - 8 * i.val) := Nat.pow_dvd_pow 2 (by omega)
  have hsplit : 2 ^ 32 = 2 ^ (8 * i.val) * 2 ^ (32 - 8 * i.val) := by rw [← pow_add]; congr 1; omega
  rw [bufferByte_eq_extract b w i hj, BitVec.extractLsb'_toNat, Nat.shiftRight_eq_div_pow, ← bufferVal_div_mod,
    hshift, pow_add, ← Nat.div_div_eq_div_mul, hsplit, Nat.mod_mul_right_div_self, Nat.mod_mod_of_dvd _ hcut]

/-- A canonical value leaves bit 255 of its buffer 0. -/
theorem bufferByte_last_getLsbD {b : Buffer} (h : bufferVal b < fieldPrime) : (bufferByte b 31).getLsbD 7 = false := by
  have hbyte : (bufferByte b 31).toNat = bufferVal b / 2 ^ 248 % 2 ^ 8 := bufferByte_toNat b 31
  rw [fieldPrime] at h
  exact Nat.testBit_lt_two_pow (by omega)

/-! ### The clamp (R143, R144) -/

/-- The clamp bit by bit, as R143 lists the bits. -/
theorem clampScalar_getLsbD_eq_ite (n : BitVec 256) (j : Nat) :
    (clampScalar n).getLsbD j = if j < 3 ∨ j = 255 then false else if j = 254 then true else n.getLsbD j := by
  rw [clampScalar_getLsbD]
  split_ifs with hcleared hset
  · have : j ≠ 254 := by omega
    rcases hcleared with h | h <;> simp [h, this]
  · simp [hset]
  · have hge : 3 ≤ j := by omega
    have hne : j ≠ 255 := by omega
    simp [hset, hge, hne]

theorem clampScalar_clampScalar (n : BitVec 256) : clampScalar (clampScalar n) = clampScalar n := by
  apply BitVec.eq_of_getLsbD_eq
  intro j _
  simp only [clampScalar_getLsbD_eq_ite]
  split_ifs <;> rfl

/-! ### The micro-ops -/

theorem exec_fload (rd : FReg) (s : State) :
    exec (.fload rd) s = .next (writeF s rd (limbsReg (expand (bufferVal s.point)))) := rfl

theorem exec_fstore (ra : FReg) (s : State) :
    exec (.fstore ra) s = .next (writeResult s (toLE32 (valOf s ra % fieldPrime))) := rfl

theorem exec_kload (s : State) :
    exec .kload s = .next (writeK s (clampScalar (BitVec.ofNat 256 (bufferVal s.secret)))) := rfl

theorem exec_fmov (rd ra : FReg) (s : State) : exec (.fmov rd ra) s = .next (writeF s rd (readF s ra)) := rfl

theorem exec_fseti (rd : FReg) (imm : BitVec 12) (s : State) :
    exec (.fseti rd imm) s = .next (writeF s rd (limbsReg (setiValue imm))) := rfl

theorem exec_wipe (s : State) : exec .wipe s = .next (writeK (clearF s) 0) := rfl

end Sys2Proof.Machine
end

section
/-! PROOFS. The statements about encode, decode and the register file, settled from the lemmas above. -/

open Sys2Proof Sys2Proof.Machine

/-- Settles O16: F[rd] holds expand's limbs. -/
theorem floadExpandsPoint : Obligations.FloadExpandsPoint := by
  intro rd s
  have hlt := expand_lt (bufferVal s.point)
  obtain ⟨t, ht, hv, hframe⟩ := exec_writes_limbs (exec_fload rd s) (hlt.mono (by decide))
  refine ⟨t, ht, fun k hk => ?_, by rwa [hv], ?_, hframe⟩
  · rw [hv, limbAt_expand _ hk]
  · rw [valOf, hv, limbsVal_expand]

/-- Settles O17: RESULT's integer is the canonical value, and its bytes are cut out of it. -/
theorem fstoreWritesCanonicalValue : Obligations.FstoreWritesCanonicalValue := by
  intro ra s
  have hcanonical : valOf s ra % fieldPrime < fieldPrime := Nat.mod_lt _ (by decide)
  have hval : bufferVal (toLE32 (valOf s ra % fieldPrime)) = valOf s ra % fieldPrime :=
    bufferVal_toLE32 (hcanonical.trans (by decide))
  refine ⟨_, exec_fstore ra s, hval, fun j => ?_, bufferByte_last_getLsbD (hval.trans_lt hcanonical), rfl⟩
  rw [writeResult_result, bufferByte_toNat, hval]

/-- Settles O18, by the value each pass leaves. -/
theorem contractPassesEqualRemainder : Obligations.ContractPassesEqualRemainder :=
  fun _ => contractByPasses_eq

/-- Settles O19, bit by bit. -/
theorem kloadClampsSecret : Obligations.KloadClampsSecret := by
  intro s
  refine ⟨_, exec_kload s, fun j hj => ?_, rfl⟩
  rw [writeK_k, clampScalar_getLsbD_eq_ite, BitVec.getLsbD_ofNat, decide_eq_true hj, Bool.true_and]

/-- Settles O20, by the clamp's bits and range. -/
theorem clampProperties : Obligations.ClampProperties := by
  refine ⟨fun s t ht => ?_, clampScalar_clampScalar⟩
  cases (exec_kload s).symm.trans ht
  have hbit := clampScalar_getLsbD_eq_ite (BitVec.ofNat 256 (bufferVal s.secret))
  obtain ⟨hmod, hge, hle⟩ := clampScalar_legal (BitVec.ofNat 256 (bufferVal s.secret))
  exact ⟨hmod, hbit 255, hbit 254, hge, hle⟩

/-- Settles O21: a register written is read back, and writing back what it holds changes nothing. -/
theorem fmovAndFsetiWriteDestination : Obligations.FmovAndFsetiWriteDestination := by
  intro rd ra imm s
  refine ⟨⟨_, exec_fmov rd ra s, readF_writeF_self s rd _, writeF_onlyFieldRegs s rd _⟩, ?_, ?_⟩
  · rw [exec_fmov, writeF_readF]
  · have himm := imm.isLt
    have hlt : LimbsBelow (2 ^ 55) (setiValue imm) := by
      refine ⟨?_, ?_, ?_, ?_, ?_⟩ <;> simp only [setiValue] <;> omega
    obtain ⟨t, ht, hv, hframe⟩ := exec_writes_limbs (exec_fseti rd imm s) hlt
    exact ⟨t, ht, hv, by rw [valOf, hv]; simp [limbsVal, setiValue], hframe⟩

/-- Settles O22, by what clearing F leaves in each register. -/
theorem wipeClearsFieldAndScalar : Obligations.WipeClearsFieldAndScalar := by
  intro s
  refine ⟨_, exec_wipe s, fun r => ?_, rfl, rfl⟩
  have hzero : readF (writeK (clearF s) 0) r = zeroReg := readF_clearF s r
  rw [fieldOf, hzero]
  rfl
end

section
/-! PROOFS. The ladder: the swap of two points, one iteration, the loop over the scalar's bits, and the micro-ops that
run it on F0 to F3. -/

namespace Sys2Proof.Machine

/-! ### Field registers, written and read back -/

/-- Two register files that read alike are the same. -/
theorem f_eq_of_readF_eq {s t : State} (h : ∀ r, readF s r = readF t r) : s.f = t.f :=
  Vector.ext fun i hi => h ⟨i, hi⟩

theorem writeF_comm (s : State) {r q : FReg} (h : r ≠ q) (v w : FieldReg) :
    writeF (writeF s r v) q w = writeF (writeF s q w) r v :=
  congrArg (fun f => { s with f }) (Vector.set_comm _ _ (Fin.val_ne_of_ne h))

@[simp] theorem limbsReg_fieldOf (s : State) (r : FReg) : limbsReg (fieldOf s r) = readF s r := limbsReg_regLimbs _

@[simp] theorem writePoints_k (s : State) (p : PointPair) : (writePoints s p).k = s.k := rfl

/-- Of two writes of the points the second stays. -/
theorem writePoints_writePoints (s : State) (p u : PointPair) : writePoints (writePoints s p) u = writePoints s u := by
  have hf : (writePoints (writePoints s p) u).f = (writePoints s u).f := f_eq_of_readF_eq fun r => by
    simp only [writePoints, readF_writeF]
    split_ifs <;> rfl
  exact congrArg (fun f => { s with f }) hf

/-- Writing F0 to F3 leaves the base point F4. -/
theorem fieldOf_writePoints_base (s : State) (p : PointPair) : fieldOf (writePoints s p) 4 = fieldOf s 4 :=
  congrArg regLimbs ((writePoints_onlyFieldRegs s p).2 4 (by decide))

/-! ### CSWAP on register pairs (R170) -/

/-- An even register is the Z register of no pair. -/
theorem ne_pairZ {r q : FReg} (hr : r.val % 2 = 0) (hq : q.val % 2 = 0) : r ≠ pairZ q := by
  intro h
  have hval : r.val = (q.val + 1) % 16 := congrArg Fin.val h
  omega

theorem exec_cswap {ra rb : FReg} (bit : BitVec 8) (s : State) (ha : ra.val % 2 = 0) (hb : rb.val % 2 = 0) :
    exec (.cswap ra rb bit) s = .next (swapPoints ra rb (scalarBit s.k bit.toNat) s) :=
  if_pos (by simp [pairBase, ha, hb])

theorem swapPoints_onlyFieldRegs (ra rb : FReg) (bit : Nat) (s : State) :
    OnlyFieldRegs [ra, pairZ ra, rb, pairZ rb] s (swapPoints ra rb bit s) :=
  ⟨rfl, (swapPoints_changes ra rb bit s).2⟩

theorem swapPoints_keep (ra rb : FReg) (s : State) : swapPoints ra rb 0 s = s := by
  simp only [swapPoints, maskedSwap_keep, limbsReg_fieldOf, writeF_readF]

theorem swapPoints_self (r : FReg) (bit : Nat) (s : State) : swapPoints r r bit s = s := by
  simp only [swapPoints, maskedSwap_self, limbsReg_fieldOf, writeF_readF]

/-- Bit 1 exchanges the points: even registers are written by the X writes only, odd ones by the Z writes. -/
theorem swapPoints_exchange {ra rb : FReg} (s : State) (ha : ra.val % 2 = 0) (hb : rb.val % 2 = 0) :
    readF (swapPoints ra rb 1 s) ra = readF s rb ∧ readF (swapPoints ra rb 1 s) rb = readF s ra ∧
      readF (swapPoints ra rb 1 s) (pairZ ra) = readF s (pairZ rb) ∧
      readF (swapPoints ra rb 1 s) (pairZ rb) = readF s (pairZ ra) := by
  have hx := maskedSwap_exchange (fieldOf_below s ra) (fieldOf_below s rb)
  have hz := maskedSwap_exchange (fieldOf_below s (pairZ ra)) (fieldOf_below s (pairZ rb))
  simp only [swapPoints, hx, hz, limbsReg_fieldOf, readF_writeF, ne_pairZ ha ha, ne_pairZ ha hb, ne_pairZ hb ha,
    ne_pairZ hb hb, if_false, if_true, ite_eq_right_iff, true_and, and_true]
  exact ⟨fun h => by rw [h], fun h => by rw [h]⟩

/-- On F0 and F2 it is the swap of the ladder's two points (R173). -/
theorem swapPoints_eq_writePoints (bit : Nat) (s : State) :
    swapPoints 0 2 bit s = writePoints s (swapPair bit (readPoints s)) := by
  rw [swapPoints, writeF_comm _ (show (2 : FReg) ≠ pairZ 0 by decide)]
  rfl

/-! ### The swap of the ladder's two points (R173) -/

/-- Every coordinate fits a register. -/
def PointsBelow (p : PointPair) : Prop :=
  LimbsBelow (2 ^ 64) p.nqx ∧ LimbsBelow (2 ^ 64) p.nqz ∧ LimbsBelow (2 ^ 64) p.nqpqx ∧ LimbsBelow (2 ^ 64) p.nqpqz

theorem PointInBound.below {a : Limbs} (h : PointInBound a) : LimbsBelow (2 ^ 64) a :=
  LimbsBelow.mono h.mulInBound (by decide)

theorem StepInBound.pointsBelow {p : PointPair} {q : Limbs} (h : StepInBound p q) : PointsBelow p := by
  obtain ⟨hx, hz, hx', hz', -⟩ := h
  exact ⟨hx.below, hz.below, hx'.below, hz'.below⟩

theorem PointsReduced.pointsBelow {p : PointPair} (h : PointsReduced p) : PointsBelow p := by
  obtain ⟨hx, hz, hx', hz'⟩ := h
  exact ⟨hx.below, hz.below, hx'.below, hz'.below⟩

/-- The swap on a scalar bit, in the two cases of the bit. -/
theorem swapPair_scalarBit {p : PointPair} (h : PointsBelow p) (k : BitVec 256) (i : Nat) :
    (k.getLsbD i = false ∧ swapPair (scalarBit k i) p = p) ∨
      (k.getLsbD i = true ∧ swapPair (scalarBit k i) p = ⟨p.nqpqx, p.nqpqz, p.nqx, p.nqz⟩) := by
  obtain ⟨hx, hz, hx', hz'⟩ := h
  cases hbit : k.getLsbD i with
  | false => exact .inl ⟨rfl, by rw [scalarBit, hbit, Bool.toNat_false, swapPair, maskedSwap_keep, maskedSwap_keep]⟩
  | true =>
    refine .inr ⟨rfl, ?_⟩
    rw [scalarBit, hbit, Bool.toNat_true, swapPair, maskedSwap_exchange hx hx', maskedSwap_exchange hz hz']

section swapPair

variable {p : PointPair} (k : BitVec 256) (i : Nat)

theorem StepInBound.swapPair {q : Limbs} (h : StepInBound p q) : StepInBound (swapPair (scalarBit k i) p) q := by
  have ⟨hx, hz, hx', hz', hq⟩ := h
  obtain ⟨-, hkeep⟩ | ⟨-, hexchange⟩ := swapPair_scalarBit h.pointsBelow k i
  · rwa [hkeep]
  · rw [hexchange]
    exact ⟨hx', hz', hx, hz, hq⟩

theorem PointsReduced.swapPair (h : PointsReduced p) : PointsReduced (swapPair (scalarBit k i) p) := by
  have ⟨hx, hz, hx', hz'⟩ := h
  obtain ⟨-, hkeep⟩ | ⟨-, hexchange⟩ := swapPair_scalarBit h.pointsBelow k i
  · rwa [hkeep]
  · rw [hexchange]
    exact ⟨hx', hz', hx, hz⟩

theorem PointsCongP.swapPair {v : IntPoints} (h : PointsCongP p v) (hp : PointsBelow p) :
    PointsCongP (swapPair (scalarBit k i) p) (intSwap (k.getLsbD i) v) := by
  have ⟨hx, hz, hx', hz'⟩ := h
  obtain ⟨hbit, hkeep⟩ | ⟨hbit, hexchange⟩ := swapPair_scalarBit hp k i
  · rwa [hkeep, hbit]
  · rw [hexchange, hbit]
    exact ⟨hx', hz', hx, hz⟩

end swapPair

/-! ### The loop over the scalar's bits (R173, R176) -/

theorem pointsCongP_limbsVal (p : PointPair) :
    PointsCongP p ⟨limbsVal p.nqx, limbsVal p.nqz, limbsVal p.nqpqx, limbsVal p.nqpqz⟩ :=
  ⟨.refl _, .refl _, .refl _, .refl _⟩

theorem PointsCongP.intReduce {p : PointPair} {v : IntPoints} (h : PointsCongP p v) : PointsCongP p (intReduce v) := by
  obtain ⟨hx, hz, hx', hz'⟩ := h
  exact ⟨hx.trans (Int.mod_modEq _ _).symm, hz.trans (Int.mod_modEq _ _).symm, hx'.trans (Int.mod_modEq _ _).symm,
    hz'.trans (Int.mod_modEq _ _).symm⟩

theorem ladderLoop_zero (k : BitVec 256) (q : Limbs) (p : PointPair) : ladderLoop k q 0 p = p := rfl

/-- Unfolded on both sides first, so that the kernel compares the recursion and does not evaluate the points' limbs. -/
theorem ladderLoop_succ (k : BitVec 256) (q : Limbs) (n : Nat) (p : PointPair) :
    ladderLoop k q (n + 1) p = ladderLoop k q n (ladderIteration q (scalarBit k n) p) := by
  delta ladderLoop
  rfl

theorem intLadder_zero (k : BitVec 256) (c : Int) (v : IntPoints) : intLadder k c 0 v = v := rfl

theorem intLadder_succ (k : BitVec 256) (c : Int) (n : Nat) (v : IntPoints) :
    intLadder k c (n + 1) v =
      intLadder k c n (intReduce (intSwap (k.getLsbD n) (intStep c (intSwap (k.getLsbD n) v)))) := rfl

section loop

variable {p : PointPair} {v : IntPoints} {q : Limbs} {c : Int} (hc : CongP (limbsVal q) c)
include hc

/-- An iteration follows the integer one, and its result has a multiply's bounds, which its precondition allows. -/
theorem ladderIteration_spec (h : StepInBound p q) (hv : PointsCongP p v) (k : BitVec 256) (i : Nat) :
    PointsReduced (ladderIteration q (scalarBit k i) p) ∧
      PointsCongP (ladderIteration q (scalarBit k i) p)
        (intReduce (intSwap (k.getLsbD i) (intStep c (intSwap (k.getLsbD i) v)))) := by
  obtain ⟨hreduced, hcong⟩ := ladderStep_spec (h.swapPair k i) (hv.swapPair k i h.pointsBelow) hc
  exact ⟨hreduced.swapPair k i, (hcong.swapPair k i hreduced.pointsBelow).intReduce⟩

theorem ladderLoop_spec (k : BitVec 256) (n : Nat) (h : StepInBound p q) (hv : PointsCongP p v) :
    PointsReduced (ladderLoop k q (n + 1) p) ∧ PointsCongP (ladderLoop k q (n + 1) p) (intLadder k c (n + 1) v) := by
  induction n generalizing p v with
  | zero =>
    rw [ladderLoop_succ, intLadder_succ, ladderLoop_zero, intLadder_zero]
    exact ladderIteration_spec hc h hv k 0
  | succ n ih =>
    have ⟨_, _, _, _, hq⟩ := h
    obtain ⟨hreduced, hcong⟩ := ladderIteration_spec hc h hv k (n + 1)
    rw [ladderLoop_succ, intLadder_succ]
    exact ih (hreduced.stepInBound hq) hcong

end loop

theorem expand_reduced (n : Nat) : MulReduced (expand n) := by
  obtain ⟨h0, h1, h2, h3, h4⟩ := expand_lt n
  exact ⟨h0, h1, h2.le, h3, h4⟩

theorem ladderStart_inBound {q : Limbs} (h : PointInBound q) : StepInBound (ladderStart q) q :=
  have hexpand : ∀ n, PointInBound (expand n) := fun n => (expand_reduced n).pointInBound
  ⟨hexpand 1, hexpand 0, h, hexpand 1, h.mulInBound⟩

theorem ladderStart_congP {q : Limbs} {c : Int} (hc : CongP (limbsVal q) c) :
    PointsCongP (ladderStart q) ⟨1, 0, c, 1⟩ := by
  have hexpand : ∀ n < 2 ^ 255, CongP (limbsVal (expand n)) n := fun n hn => by
    rw [limbsVal_expand, Nat.mod_eq_of_lt hn]
  exact ⟨hexpand 1 (by decide), hexpand 0 (by decide), hc, hexpand 1 (by decide)⟩

/-- SMUL's result is the integer ladder mod p, with a multiply's bounds. -/
theorem scalarMul_spec (k : BitVec 256) {q : Limbs} {c : Int} (h : PointInBound q) (hc : CongP (limbsVal q) c) :
    PointsReduced (scalarMul k q) ∧ PointsCongP (scalarMul k q) (intScalarMul k c) :=
  ladderLoop_spec hc k 255 (ladderStart_inBound h) (ladderStart_congP hc)

/-! ### SMUL and its micro-ops (R173) -/

theorem exec_smul_inBound {s : State} (h : PointInBound (fieldOf s 4)) :
    exec .smul s = .next (writePoints s (scalarMul s.k (fieldOf s 4))) :=
  congrArg _ (if_pos h)

theorem exec_lstep_inBound {s : State} (h : StepInBound (readPoints s) (fieldOf s 4)) :
    exec .lstep s = .next (writePoints s (ladderStep (fieldOf s 4) (readPoints s))) :=
  congrArg _ (if_pos h)

theorem runInstrs_cons (i : Instr) (is : List Instr) (s : State) :
    runInstrs (i :: is) s = andThen (exec i s) (runInstrs is) := rfl

theorem runInstrs_append (is js : List Instr) (s : State) :
    runInstrs (is ++ js) s = andThen (runInstrs is s) (runInstrs js) := by
  induction is generalizing s with
  | nil => rfl
  | cons i is ih =>
    rw [List.cons_append, runInstrs_cons, runInstrs_cons]
    cases exec i s with
    | next t => exact ih t
    | fault r => rfl
    | refused r => rfl

section points

variable {s : State} {p : PointPair}

theorem readPoints_writePoints_of_below (h : PointsBelow p) : readPoints (writePoints s p) = p := by
  obtain ⟨hx, hz, hx', hz'⟩ := h
  exact readPoints_writePoints s hx hz hx' hz'

theorem exec_cswap_writePoints (h : PointsBelow p) (bit : BitVec 8) :
    exec (.cswap 0 2 bit) (writePoints s p) = .next (writePoints s (swapPair (scalarBit s.k bit.toNat) p)) := by
  rw [exec_cswap bit _ (by decide) (by decide), swapPoints_eq_writePoints, readPoints_writePoints_of_below h,
    writePoints_writePoints, writePoints_k]

theorem exec_lstep_writePoints (h : StepInBound p (fieldOf s 4)) :
    exec .lstep (writePoints s p) = .next (writePoints s (ladderStep (fieldOf s 4) p)) := by
  have hp := readPoints_writePoints_of_below (s := s) h.pointsBelow
  have h4 := fieldOf_writePoints_base s p
  rw [exec_lstep_inBound (by rwa [hp, h4]), hp, h4, writePoints_writePoints]

end points

/-- The three micro-ops of one iteration, on scalar bit `i` (R173). -/
def iterationUops (i : Nat) : List Instr := [.cswap 0 2 (BitVec.ofNat 8 i), .lstep, .cswap 0 2 (BitVec.ofNat 8 i)]

theorem runInstrs_iterationUops {s : State} {p : PointPair} (h : StepInBound p (fieldOf s 4)) {i : Nat} (hi : i < 256) :
    runInstrs (iterationUops i) (writePoints s p) =
      .next (writePoints s (ladderIteration (fieldOf s 4) (scalarBit s.k i) p)) := by
  have hbit : (BitVec.ofNat 8 i).toNat = i := Nat.mod_eq_of_lt hi
  have hswap := h.swapPair s.k i
  obtain ⟨hreduced, -⟩ := ladderStep_spec hswap (pointsCongP_limbsVal _) (.refl _)
  rw [iterationUops, runInstrs_cons, exec_cswap_writePoints h.pointsBelow, hbit, andThen_next, runInstrs_cons,
    exec_lstep_writePoints hswap, andThen_next, runInstrs_cons, exec_cswap_writePoints hreduced.pointsBelow, hbit]
  rfl

theorem runInstrs_ladder {s : State} {p : PointPair} (h : StepInBound p (fieldOf s 4)) {n : Nat} (hn : n ≤ 256) :
    runInstrs ((List.range n).reverse.flatMap iterationUops) (writePoints s p) =
      .next (writePoints s (ladderLoop s.k (fieldOf s 4) n p)) := by
  induction n generalizing p with
  | zero => rfl
  | succ n ih =>
    have ⟨_, _, _, _, hq⟩ := h
    obtain ⟨hreduced, -⟩ := ladderIteration_spec (.refl _) h (pointsCongP_limbsVal p) s.k n
    rw [List.range_succ, List.reverse_concat, List.flatMap_cons, runInstrs_append, runInstrs_iterationUops h hn,
      andThen_next, ladderLoop_succ]
    exact ih (hreduced.stepInBound hq) (Nat.le_of_succ_le hn)

theorem runInstrs_start (s : State) :
    runInstrs [.fseti 0 1, .fseti 1 0, .fmov 2 4, .fseti 3 1] s =
      .next (writePoints s (ladderStart (fieldOf s 4))) := by
  have hone : setiValue 1 = expand 1 := by decide
  have hzero : setiValue 0 = expand 0 := by decide
  simp only [runInstrs, exec_fseti, exec_fmov, andThen_next, hone, hzero, writePoints, ladderStart, limbsReg_fieldOf]
  rw [readF_writeF_ne _ _ (by decide), readF_writeF_ne _ _ (by decide)]

/-! ### Inversion and the quotient X/Z as residues (R200, R221) -/

section power

variable {z a b : Limbs} {m n : Nat}

theorem residue_fieldMul_pow (ha : residue a = residue z ^ m) (hb : residue b = residue z ^ n) :
    residue (fieldMul a b) = residue z ^ (m + n) := by
  rw [residue_fieldMul, ha, hb, pow_add]

theorem residue_fieldSqTimes_pow (n : Nat) (ha : residue a = residue z ^ m) :
    residue (fieldSqTimes n a) = residue z ^ (m * 2 ^ n) := by
  rw [residue_fieldSqTimes, ha, pow_mul]

end power

/-- The addition chain of R200: `h2`, `h9` and `h11` reach these exponents, `honesN` reaches 2^N − 1, which is N ones. -/
theorem residue_fieldInv (z : Limbs) : residue (fieldInv z) = residue z ^ (fieldPrime - 2) := by
  have h1 : residue z = residue z ^ 1 := (pow_one _).symm
  have h2 := residue_fieldSqTimes_pow 1 h1
  have h9 := residue_fieldMul_pow (residue_fieldSqTimes_pow 2 h2) h1
  have h11 := residue_fieldMul_pow h9 h2
  have hones5 := residue_fieldMul_pow (residue_fieldSqTimes_pow 1 h11) h9
  have hones10 := residue_fieldMul_pow (residue_fieldSqTimes_pow 5 hones5) hones5
  have hones20 := residue_fieldMul_pow (residue_fieldSqTimes_pow 10 hones10) hones10
  have hones40 := residue_fieldMul_pow (residue_fieldSqTimes_pow 20 hones20) hones20
  have hones50 := residue_fieldMul_pow (residue_fieldSqTimes_pow 10 hones40) hones10
  have hones100 := residue_fieldMul_pow (residue_fieldSqTimes_pow 50 hones50) hones50
  have hones200 := residue_fieldMul_pow (residue_fieldSqTimes_pow 100 hones100) hones100
  have hones250 := residue_fieldMul_pow (residue_fieldSqTimes_pow 50 hones200) hones50
  have hlast := residue_fieldMul_pow (residue_fieldSqTimes_pow 5 hones250) h11
  exact hlast.trans (congrArg (residue z ^ ·) (by decide))

theorem fieldMul_fieldInv_congP {a z : Limbs} {x y : Int} (ha : CongP (limbsVal a) x) (hz : CongP (limbsVal z) y) :
    CongP (limbsVal (fieldMul a (fieldInv z))) (x * y ^ (fieldPrime - 2)) := by
  rw [congP_limbsVal_iff] at ha hz ⊢
  rw [residue_fieldMul, residue_fieldInv, ha, hz, Int.cast_mul, Int.cast_pow]

end Sys2Proof.Machine
end

section
/-! PROOFS. The statements about the ladder, settled from the lemmas above. -/

open Sys2Proof Sys2Proof.Machine

/-- Settles O23, by what the masked swap does for each bit and for equal operands. -/
theorem cswapExchangesPoints : Obligations.CswapExchangesPoints := by
  intro ra rb bit s ha hb
  refine ⟨_, exec_cswap bit s ha hb, fun h => ?_, ?_, fun h => ?_, swapPoints_onlyFieldRegs ra rb _ s⟩
  · rw [scalarBit, h]
    exact swapPoints_keep ra rb s
  · rintro rfl
    exact swapPoints_self ra _ s
  · rw [scalarBit, h]
    exact swapPoints_exchange s ha hb

/-- Settles O25, by the ladder's bounds and congruence, which the registers give back. -/
theorem smulRunsTheLadder : Obligations.SmulRunsTheLadder := by
  intro s h
  obtain ⟨hreduced, hcong⟩ := scalarMul_spec s.k h (.refl _)
  have hp := readPoints_writePoints_of_reduced s hreduced
  refine ⟨_, exec_smul_inBound h, ?_, fun r hr k hk => ?_, writePoints_onlyFieldRegs s _⟩
  · rw [← hp] at hcong
    exact hcong
  · rw [← hp] at hreduced
    exact (hreduced.fieldOf hr).limbAt_le hk

/-- Settles O26: the first four micro-ops write the starting points, the others run the loop. -/
theorem smulEqualsItsMicroOpSequence : Obligations.SmulEqualsItsMicroOpSequence := by
  intro s h
  rw [exec_smul_inBound h, runInstrs_append, runInstrs_start, andThen_next]
  exact (runInstrs_ladder (ladderStart_inBound h) le_rfl).symm

/-- Settles O30, by the ladder's congruence and the inversion's. -/
theorem deriveIsTheLadderModP : Obligations.DeriveIsTheLadderModP := by
  intro secret point
  have hbase : CongP (limbsVal (expand (bufferVal point))) ((bufferVal point % 2 ^ 255 : Nat) : Int) := by
    rw [limbsVal_expand]
  obtain ⟨-, hx, hz, -⟩ := scalarMul_spec (clampScalar (BitVec.ofNat 256 (bufferVal secret)))
    (expand_reduced (bufferVal point)).pointInBound hbase
  rw [deriveValue, Int.natCast_mod]
  exact fieldMul_fieldInv_congP hx hz
end

section
/-! PROOFS. Field inversion: FINV's bound and laws mod p, and runs of multiplies on the field registers. -/

namespace Sys2Proof.Machine

/-! ### FINV in bound (R200) -/

theorem exec_finv_inBound {rd ra : FReg} {s : State} (h : MulInBound (fieldOf s ra)) :
    exec (.finv rd ra) s = .next (writeF s rd (limbsReg (fieldInv (fieldOf s ra)))) :=
  congrArg _ (if_pos h)

theorem fieldMul_inBound {a b : Limbs} (ha : MulInBound a) (hb : MulInBound b) : MulInBound (fieldMul a b) :=
  (fieldMul_reduced ha hb).mulInBound

theorem fieldSqTimes_inBound (n : Nat) {x : Limbs} (hx : MulInBound x) : MulInBound (fieldSqTimes n x) := by
  cases n with
  | zero => exact hx
  | succ n => exact (fieldSqTimes_reduced n.succ_ne_zero hx).mulInBound

/-- Every step of R200's chain is in bound, so that the last multiply bounds the result; the names are those of
`residue_fieldInv`. -/
theorem fieldInv_reduced {z : Limbs} (hz : MulInBound z) : MulReduced (fieldInv z) := by
  have h2 := fieldSqTimes_inBound 1 hz
  have h9 := fieldMul_inBound (fieldSqTimes_inBound 2 h2) hz
  have h11 := fieldMul_inBound h9 h2
  have hones5 := fieldMul_inBound (fieldSqTimes_inBound 1 h11) h9
  have hones10 := fieldMul_inBound (fieldSqTimes_inBound 5 hones5) hones5
  have hones20 := fieldMul_inBound (fieldSqTimes_inBound 10 hones10) hones10
  have hones40 := fieldMul_inBound (fieldSqTimes_inBound 20 hones20) hones20
  have hones50 := fieldMul_inBound (fieldSqTimes_inBound 10 hones40) hones10
  have hones100 := fieldMul_inBound (fieldSqTimes_inBound 50 hones50) hones50
  have hones200 := fieldMul_inBound (fieldSqTimes_inBound 100 hones100) hones100
  have hones250 := fieldMul_inBound (fieldSqTimes_inBound 50 hones200) hones50
  exact fieldMul_reduced (fieldSqTimes_inBound 5 hones250) h11

/-! ### The inversion laws (R201) -/

theorem residue_eq_zero_iff (a : Limbs) : residue a = 0 ↔ limbsVal a % fieldPrime = 0 :=
  (ZMod.natCast_eq_zero_iff _ _).trans Nat.dvd_iff_mod_eq_zero

theorem residue_mul_eq_one_iff (a b : Limbs) :
    residue a * residue b = 1 ↔ limbsVal a * limbsVal b % fieldPrime = 1 := by
  have hone : 1 % fieldPrime = 1 := by decide
  have hcast := ZMod.natCast_eq_natCast_iff' (limbsVal a * limbsVal b) 1 fieldPrime
  rwa [Nat.cast_mul, Nat.cast_one, hone] at hcast

theorem fieldInv_congP (z : Limbs) : CongP (limbsVal (fieldInv z)) ((limbsVal z : Int) ^ (fieldPrime - 2)) := by
  rw [congP_limbsVal_iff, residue_fieldInv, Int.cast_pow, Int.cast_natCast, residue]

/-- The integers mod p have no zero divisors, p being prime. -/
theorem fieldInv_mod_eq_zero_iff (z : Limbs) :
    limbsVal (fieldInv z) % fieldPrime = 0 ↔ limbsVal z % fieldPrime = 0 := by
  have : Fact fieldPrime.Prime := ⟨fieldPrime_prime⟩
  rw [← residue_eq_zero_iff, residue_fieldInv, pow_eq_zero_iff (by decide), residue_eq_zero_iff]

/-- By Fermat's little theorem. -/
theorem fieldInv_mul_mod_eq_one {z : Limbs} (hz : limbsVal z % fieldPrime ≠ 0) :
    limbsVal (fieldInv z) * limbsVal z % fieldPrime = 1 := by
  have : Fact fieldPrime.Prime := ⟨fieldPrime_prime⟩
  have hexponent : fieldPrime - 2 + 1 = fieldPrime - 1 := by decide
  rw [← residue_mul_eq_one_iff, residue_fieldInv, ← pow_succ, hexponent]
  exact ZMod.pow_card_sub_one_eq_one (mt (residue_eq_zero_iff z).1 hz)

/-! ### Runs of FMUL and FSQR (R203) -/

/-- Is it an FMUL or an FSQR, with an encoding, whose sources are among `bounded`? -/
def multipliesFrom (bounded : List FReg) : Instr → Bool
  | .fmul _ ra rb => bounded.contains ra && bounded.contains rb
  | .fsqr _ ra count => bounded.contains ra && count != 0
  | _ => false

/-- The same of a run, each result being a source the later micro-ops may use. -/
def runMultipliesFrom : List FReg → List Instr → Bool
  | _, [] => true
  | bounded, i :: is => multipliesFrom bounded i && runMultipliesFrom (destRegs i ++ bounded) is

/-- The field values an FMUL or FSQR leaves of the values `v`, in bound. -/
def multiplyValues (v : FReg → Limbs) : Instr → FReg → Limbs
  | .fmul rd ra rb => Function.update v rd (fieldMul (v ra) (v rb))
  | .fsqr rd ra count => Function.update v rd (fieldSqTimes count.toNat (v ra))
  | _ => v

theorem fieldOf_writeF (s : State) (r : FReg) {a : Limbs} (h : LimbsBelow (2 ^ 64) a) :
    fieldOf (writeF s r (limbsReg a)) = Function.update (fieldOf s) r a := by
  funext q
  by_cases hq : q = r
  · subst hq
    rw [fieldOf_writeF_self s q h, Function.update_self]
  · rw [fieldOf, readF_writeF_ne s _ hq, Function.update_of_ne hq, fieldOf]

theorem forall_mem_cons_update {P : Limbs → Prop} {bounded : List FReg} {v : FReg → Limbs} {r : FReg} {a : Limbs}
    (ha : P a) (hv : ∀ q ∈ bounded, P (v q)) : ∀ q ∈ r :: bounded, P (Function.update v r a q) := by
  intro q hq
  by_cases h : q = r
  · subst h
    rwa [Function.update_self]
  · rw [Function.update_of_ne h]
    exact hv q (List.mem_of_ne_of_mem h hq)

section runs

variable {bounded : List FReg} {s : State}

/-- A multiply of in-bound registers writes its result, which is in bound too, and nothing else. -/
theorem exec_multiply {i : Instr} (hi : multipliesFrom bounded i = true)
    (hs : ∀ r ∈ bounded, MulInBound (fieldOf s r)) :
    ∃ t, exec i s = .next t ∧ fieldOf t = multiplyValues (fieldOf s) i ∧
      (∀ r ∈ destRegs i ++ bounded, MulInBound (fieldOf t r)) ∧ OnlyFieldRegs (destRegs i) s t := by
  cases i with
  | fmul rd ra rb =>
    simp only [multipliesFrom, Bool.and_eq_true, List.contains_iff_mem] at hi
    obtain ⟨ha, hb⟩ := hi
    have hreduced := fieldMul_reduced (hs ra ha) (hs rb hb)
    have hv := fieldOf_writeF s rd hreduced.below
    refine ⟨_, exec_fmul_inBound ⟨hs ra ha, hs rb hb⟩, hv, ?_, writeF_onlyFieldRegs s rd _⟩
    rw [hv]
    exact forall_mem_cons_update hreduced.mulInBound hs
  | fsqr rd ra count =>
    simp only [multipliesFrom, Bool.and_eq_true, List.contains_iff_mem, bne_iff_ne] at hi
    obtain ⟨ha, hcount⟩ := hi
    have hreduced := fieldSqTimes_reduced (fun e => hcount (BitVec.eq_of_toNat_eq e)) (hs ra ha)
    have hv := fieldOf_writeF s rd hreduced.below
    refine ⟨_, exec_fsqr_inBound hcount (hs ra ha), hv, ?_, writeF_onlyFieldRegs s rd _⟩
    rw [hv]
    exact forall_mem_cons_update hreduced.mulInBound hs
  | _ => cases hi

/-- So a run of multiplies leaves the values its micro-ops give one after the other. -/
theorem runInstrs_multiplies {is : List Instr} (his : runMultipliesFrom bounded is = true)
    (hs : ∀ r ∈ bounded, MulInBound (fieldOf s r)) :
    ∃ u, runInstrs is s = .next u ∧ fieldOf u = is.foldl multiplyValues (fieldOf s) ∧
      OnlyFieldRegs (is.flatMap destRegs) s u := by
  induction is generalizing bounded s with
  | nil => exact ⟨s, rfl, rfl, rfl, fun _ _ => rfl⟩
  | cons i is ih =>
    obtain ⟨hi, his⟩ := (Bool.and_eq_true _ _).mp his
    obtain ⟨t, ht, htv, htbounded, htframe⟩ := exec_multiply hi hs
    obtain ⟨u, hu, huv, huframe⟩ := ih his htbounded
    refine ⟨u, ?_, ?_, onlyFieldRegs_trans htframe huframe⟩
    · rw [runInstrs_cons, ht, andThen_next, hu]
    · rw [huv, htv, List.foldl_cons]

end runs

theorem OnlyFieldRegs.mono {d e : List FReg} {s t : State} (h : OnlyFieldRegs d s t) (hde : d ⊆ e) :
    OnlyFieldRegs e s t := by
  obtain ⟨ht, hr⟩ := h
  exact ⟨ht, fun r hm => hr r fun hd => hm (hde hd)⟩

/-- R203's micro-ops, with f6, f7, f8 and f9 for R200's a, t0, b and c. -/
def inversionUops : List Instr :=
  [.fsqr 6 1 1, .fsqr 7 6 2, .fmul 8 7 1, .fmul 6 8 6, .fsqr 7 6 1, .fmul 8 7 8, .fsqr 7 8 5, .fmul 8 7 8,
    .fsqr 7 8 10, .fmul 9 7 8, .fsqr 7 9 20, .fmul 7 7 9, .fsqr 7 7 10, .fmul 8 7 8, .fsqr 7 8 50, .fmul 9 7 8,
    .fsqr 7 9 100, .fmul 7 7 9, .fsqr 7 7 50, .fmul 7 7 8, .fsqr 7 7 5, .fmul 5 7 6]

/-- Their values in f5 are R200's chain, line for line. -/
theorem inversionUops_values (v : FReg → Limbs) : inversionUops.foldl multiplyValues v 5 = fieldInv (v 1) := by
  simp [inversionUops, multiplyValues, fieldInv]

end Sys2Proof.Machine
end

section
/-! PROOFS. The statements about field inversion, settled from the lemmas above. -/

open Sys2Proof Sys2Proof.Machine

/-- Settles O27, by the chain's exponent, its bound, and Fermat's little theorem. -/
theorem finvRaisesToPMinusTwo : Obligations.FinvRaisesToPMinusTwo := by
  intro rd ra s h
  have hreduced := fieldInv_reduced h
  obtain ⟨t, ht, hv, hframe⟩ := exec_writes_limbs (exec_finv_inBound (rd := rd) h) hreduced.mulInBound
  rw [← hv] at hreduced
  refine ⟨t, ht, ?_, ?_, fun hne => ?_, fun k hk => hreduced.limbAt_le hk, hframe⟩
  · rw [valOf, hv]; exact fieldInv_congP _
  · rw [valOf, hv]; exact fieldInv_mod_eq_zero_iff _
  · rw [valOf, hv]; exact fieldInv_mul_mod_eq_one hne

/-- Settles O28: the micro-ops are multiplies of F1 and of each other's results, and run R200's chain. -/
theorem finvEqualsItsMicroOpSequence : Obligations.FinvEqualsItsMicroOpSequence := by
  intro s h
  have hmultiplies : runMultipliesFrom [1] inversionUops = true := by decide
  obtain ⟨u, hu, huv, hframe⟩ := runInstrs_multiplies hmultiplies (by simpa using h)
  refine ⟨_, u, exec_finv_inBound h, hu, ?_, hframe.mono (by decide)⟩
  rw [readF_writeF_self, ← limbsReg_fieldOf, huv, inversionUops_values]
end

section
/-! PROOFS. EXEC_UOP, the engine's turn, a CMD write, and words placed to run. -/

namespace Sys2Proof.Machine

/-! ### EXEC_UOP (R222) -/

/-- EXEC_UOP of a word that decodes is that micro-op and then completion. -/
theorem exec_execUop {s : State} {i : Instr} (h : decodeUop s.latchUop = .ok i) :
    exec .execUop s = andThen (exec i s) fun t => .next (finishCommand t) := by
  have hexec : exec .execUop s = execExecUop s := rfl
  rw [hexec, execExecUop, h, ← executeUop_eq_exec (decodeUop_ok h).1]

theorem exec_execUop_completes {s : State} {i : Instr} (h : decodeUop s.latchUop = .ok i) :
    ∃ u, exec i s = .next u ∧ exec .execUop s = .next (finishCommand u) := by
  obtain ⟨hu, hw⟩ := decodeUop_ok h
  obtain ⟨u, hexec, -⟩ := exec_uop_effect hu hw s
  exact ⟨u, hexec, by rw [exec_execUop h, hexec, andThen_next]⟩

/-! ### The engine's turn (R224) -/

theorem completeCommand_ok (run : Instr → State → Result) {s : State} {i : Instr} (h : decodeCmd s.latchCmd = .ok i) :
    completeCommand run s = run i s := by
  rw [completeCommand, h]

/-- The turn comes from the head of the inputs or from their being empty (log 2). -/
theorem step_engineTurn {s : State} {rest : List Input}
    (h : s.inputs = .engine :: rest ∨ (s.inputs = [] ∧ rest = [])) :
    step s = engineTurn exec (takeInput s rest) := by
  rcases h with h | ⟨h, rfl⟩
  · exact step_engine h
  · have hs : takeInput s [] = s := by rw [← h]; rfl
    rw [step_nil h, hs]

theorem step_busy {s : State} {rest : List Input} (hb : s.busy = true) (hr : s.inReset = false)
    (h : s.inputs = .engine :: rest ∨ (s.inputs = [] ∧ rest = [])) :
    step s = completeCommand exec (takeInput s rest) := by
  rw [step_engineTurn h, engineTurn_busy exec (s := takeInput s rest) hb hr]

theorem engineTurn_answers (s : State) : ∃ t, engineTurn exec s = .next t := by
  rcases engineTurn_cases s with ⟨-, -, t, ht, -⟩ | ⟨-, ht⟩ <;> exact ⟨_, ht⟩

/-- A completion leaves all but F, K, RESULT, STATUS and the count of draws. -/
theorem CommandCompletes.frame {s t : State} (h : CommandCompletes s t) :
    t = { s with f := t.f, k := t.k, result := t.result, oobDraws := t.oobDraws, busy := t.busy, done := t.done,
                 err := t.err, errcode := t.errcode } := by
  obtain ⟨u, ⟨hu, -, -⟩, rfl | ⟨c, rfl⟩⟩ := h <;> rw [hu] <;> rfl

theorem StatusLegal.err_iff {s : State} (h : StatusLegal s) : s.err = true ↔ s.errcode ≠ 0 := by
  obtain ⟨-, hok, herr⟩ := h
  refine ⟨fun he hzero => ?_, fun hne => by simpa using mt hok hne⟩
  have hpos := (herr he).1
  simp [hzero] at hpos

/-! ### A CMD write (R223) -/

theorem step_writeCmd {s : State} {v : Word} {rest : List Input} (hb : s.busy = false) (hr : s.inReset = false)
    (h : s.inputs = memWrite 0x04 v :: rest) :
    step s = .next (respond (startCommand v (takeInput s rest)) .written) := by
  rw [step_memWrite hr (by decide) h, windowReg_cmd (by decide), writeWindow,
    unlessBusy_idle (s := takeInput s rest) _ hb]

/-! ### A placed word (log 9) -/

theorem decodeTableWord_eq_some {nbits w : Nat} {i : Instr} (h : decodeTableWord nbits w = some i) :
    decodeCmd (BitVec.ofNat 32 (tableWord nbits w)) = .ok i ∨
      decodeUop (BitVec.ofNat 32 (tableWord nbits w)) = .ok i := by
  unfold decodeTableWord decodeWord at h
  split at h
  · split at h
    · next hcmd => cases h; exact .inl hcmd
    · split at h
      · next huop => cases h; exact .inr huop
      · cases h
  · cases h

/-- A placed command word is in the latch of a busy machine whose engine has its turn. -/
theorem step_placeWord_cmd {w : Word} {i : Instr} (h : decodeCmd w = .ok i) (s : State) :
    step (placeWord w s) = exec i (placeWord w s) := by
  have hplaced : placeWord w s = startCommand w { s with inputs := [], inReset := false, busy := false } := by
    rw [placeWord, h]
  have hlatch : decodeCmd (placeWord w s).latchCmd = .ok i := by rw [hplaced]; exact h
  have hstep : step (placeWord w s) = completeCommand exec (placeWord w s) := by
    rw [hplaced]; exact step_busy rfl rfl (.inr ⟨rfl, rfl⟩)
  rw [hstep, completeCommand_ok exec hlatch]

theorem placeWord_uop {w : Word} {i : Instr} (h : decodeUop w = .ok i) (s : State) :
    placeWord w s = startCommand 2 (writeUop { s with inputs := [], inReset := false, busy := false } w) := by
  obtain ⟨c, hc⟩ := decodeCmd_of_decodeUop h
  rw [placeWord, hc]

/-- A placed micro-op word is in the latch's other half, with EXEC_UOP as the command. -/
theorem step_placeWord_uop {w : Word} {i : Instr} (h : decodeUop w = .ok i) (s : State) :
    step (placeWord w s) = exec .execUop (placeWord w s) ∧ decodeUop (placeWord w s).latchUop = .ok i := by
  rw [placeWord_uop h]
  refine ⟨?_, h⟩
  exact (step_busy rfl rfl (.inr ⟨rfl, rfl⟩)).trans (completeCommand_ok exec rfl)

end Sys2Proof.Machine
end

section
/-! PROOFS. DERIVE from its micro-ops, what its value depends on, and a base congruent to 0. -/

namespace Sys2Proof.Machine

/-! ### The ROM (R220) -/

theorem runRom_cons {w : Word} {i : Instr} (h : decodeUop w = .ok i) (ws : List Word) (s : State) :
    runRom (w :: ws) s = andThen (exec i s) (runRom ws) := by
  rw [runRom, h, ← executeUop_eq_exec (decodeUop_ok h).1]

/-- `s` with the number `n` in RESULT and F and K wiped: what the ROM's last two micro-ops leave. -/
def wipedWithResult (s : State) (n : Nat) : State := writeK (clearF (writeResult s (toLE32 n))) 0

/-! What F and K held does not show in it. -/

theorem wipedWithResult_writeF (s : State) (r : FReg) (v : FieldReg) (n : Nat) :
    wipedWithResult (writeF s r v) n = wipedWithResult s n := rfl

theorem wipedWithResult_writeK (s : State) (k : BitVec 256) (n : Nat) :
    wipedWithResult (writeK s k) n = wipedWithResult s n := rfl

theorem wipedWithResult_writePoints (s : State) (p : PointPair) (n : Nat) :
    wipedWithResult (writePoints s p) n = wipedWithResult s n := rfl

/-! The ROM from its end: each micro-op finds its operands in bound and hands its result to the ones after it. -/

theorem runRom_fromFmul {s : State} (hx : MulInBound (fieldOf s 0)) (hz : MulInBound (fieldOf s 5)) :
    runRom [0x03005000, 0x0B000000, 0x0F000000] s =
      .next (wipedWithResult s (limbsVal (fieldMul (fieldOf s 0) (fieldOf s 5)) % fieldPrime)) := by
  have hproduct := fieldOf_writeF_self s 0 (fieldMul_reduced hx hz).below
  rw [runRom_cons (i := .fmul 0 0 5) rfl, exec_fmul_inBound ⟨hx, hz⟩, andThen_next, runRom_cons (i := .fstore 0) rfl,
    exec_fstore, andThen_next, runRom_cons (i := .wipe) rfl, exec_wipe, andThen_next, valOf, hproduct]
  rfl

theorem runRom_fromFinv {s : State} (hx : MulInBound (fieldOf s 0)) (hz : MulInBound (fieldOf s 1)) :
    runRom [0x0C510000, 0x03005000, 0x0B000000, 0x0F000000] s =
      .next (wipedWithResult s (limbsVal (fieldMul (fieldOf s 0) (fieldInv (fieldOf s 1))) % fieldPrime)) := by
  have hreduced := fieldInv_reduced hz
  have hinverse := fieldOf_writeF_self s 5 hreduced.below
  have hsame : fieldOf (writeF s 5 (limbsReg (fieldInv (fieldOf s 1)))) 0 = fieldOf s 0 :=
    congrArg regLimbs (readF_writeF_ne s _ (by decide))
  rw [runRom_cons (i := .finv 5 1) rfl, exec_finv_inBound hz, andThen_next,
    runRom_fromFmul (by rwa [hsame]) (by rw [hinverse]; exact hreduced.mulInBound), hinverse, hsame,
    wipedWithResult_writeF]

theorem runRom_fromSmul {s : State} (h : PointInBound (fieldOf s 4)) :
    runRom [0x0E000000, 0x0C510000, 0x03005000, 0x0B000000, 0x0F000000] s =
      .next (wipedWithResult s (limbsVal (fieldMul (scalarMul s.k (fieldOf s 4)).nqx
        (fieldInv (scalarMul s.k (fieldOf s 4)).nqz)) % fieldPrime)) := by
  obtain ⟨hreduced, -⟩ := scalarMul_spec s.k h (.refl _)
  have hpoints := readPoints_writePoints_of_reduced s hreduced
  have hx := congrArg PointPair.nqx hpoints
  have hz := congrArg PointPair.nqz hpoints
  rw [← hpoints] at hreduced
  rw [runRom_cons (i := .smul) rfl, exec_smul_inBound h, andThen_next,
    runRom_fromFinv (hreduced.fieldOf (by decide)).mulInBound (hreduced.fieldOf (by decide)).mulInBound,
    wipedWithResult_writePoints, ← hx, ← hz]
  rfl

theorem runRom_deriveRom (s : State) :
    runRom deriveRom s = .next (wipedWithResult s (deriveValue s.secret s.point)) := by
  have hreduced := expand_reduced (bufferVal s.point)
  have hbase : ∀ u, fieldOf (writeF u 4 (limbsReg (expand (bufferVal s.point)))) 4 = expand (bufferVal s.point) :=
    fun u => fieldOf_writeF_self u 4 hreduced.below
  rw [deriveRom, runRom_cons (i := .kload) rfl, exec_kload, andThen_next, runRom_cons (i := .fload 4) rfl,
    exec_fload, andThen_next, writeK_point, runRom_fromSmul (by rw [hbase]; exact hreduced.pointInBound), hbase,
    wipedWithResult_writeF, wipedWithResult_writeK]
  rfl

theorem exec_derive (s : State) :
    exec .derive s = .next (finishCommand (wipedWithResult s (deriveValue s.secret s.point))) := by
  have hexec : exec .derive s = execDerive s := rfl
  rw [hexec, execDerive, runRom_deriveRom, andThen_next]

theorem bufferVal_toLE32_deriveValue (secret point : Buffer) :
    bufferVal (toLE32 (deriveValue secret point)) = deriveValue secret point := by
  have hlt : deriveValue secret point < fieldPrime := Nat.mod_lt _ (by decide)
  exact bufferVal_toLE32 (hlt.trans (by decide))

theorem fieldOf_wipedWithResult (s : State) (n : Nat) (r : FReg) :
    fieldOf (wipedWithResult s n) r = ⟨0, 0, 0, 0, 0⟩ := by
  have hzero : readF (wipedWithResult s n) r = zeroReg := readF_clearF s r
  rw [fieldOf, hzero]
  rfl

/-! ### What derive depends on (R221) -/

/-- Bit 255 of the integer lands in no limb (R140). -/
theorem expand_mod (n : Nat) : expand (n % 2 ^ 255) = expand n := by
  rw [expand_eq, expand_eq]
  ext <;> simp only <;> omega

theorem deriveValue_congr {secret point secret' point' : Buffer}
    (hs : clampScalar (BitVec.ofNat 256 (bufferVal secret)) = clampScalar (BitVec.ofNat 256 (bufferVal secret')))
    (hp : bufferVal point % 2 ^ 255 = bufferVal point' % 2 ^ 255) :
    deriveValue secret point = deriveValue secret' point' := by
  have hexpand : expand (bufferVal point) = expand (bufferVal point') := by
    rw [← expand_mod, hp, expand_mod]
  rw [deriveValue, deriveValue, hs, hexpand]

/-! ### A base congruent to 0 (R226) -/

/-- Doubling a point with x·z ≡ 0 leaves z ≡ 0, by 4·x·z = (x + z)² − (x − z)² (R172). -/
theorem dvd_intStep_z {p : Int} (c : Int) {v : IntPoints} (h : p ∣ v.x * v.z) : p ∣ (intStep c v).z := by
  have he : (v.x + v.z) ^ 2 - (v.x - v.z) ^ 2 = 4 * (v.x * v.z) := by ring
  exact Dvd.dvd.mul_right (he ▸ Dvd.dvd.mul_left h 4) _

/-- The sum's z has the base as a factor (R172). -/
theorem dvd_intStep_z' {p c : Int} (h : p ∣ c) (v : IntPoints) : p ∣ (intStep c v).z' := Dvd.dvd.mul_right h _

section zeroBase

variable {c : Int} (hc : (fieldPrime : Int) ∣ c)
include hc

/-- An iteration on points with x·z ≡ 0 leaves z = 0 in both, whichever way they are swapped. -/
theorem intIteration_z_eq_zero {v : IntPoints} (b : Bool) (h : (fieldPrime : Int) ∣ v.x * v.z)
    (h' : (fieldPrime : Int) ∣ v.x' * v.z') :
    (intReduce (intSwap b (intStep c (intSwap b v)))).z = 0 ∧
      (intReduce (intSwap b (intStep c (intSwap b v)))).z' = 0 := by
  have hsum := fun u => Int.emod_eq_zero_of_dvd (dvd_intStep_z' hc u)
  cases b with
  | false => exact ⟨Int.emod_eq_zero_of_dvd (dvd_intStep_z c h), hsum _⟩
  | true => exact ⟨hsum _, Int.emod_eq_zero_of_dvd (dvd_intStep_z c h')⟩

theorem intLadder_z_eq_zero (k : BitVec 256) (n : Nat) {v : IntPoints} (h : (fieldPrime : Int) ∣ v.x * v.z)
    (h' : (fieldPrime : Int) ∣ v.x' * v.z') : (intLadder k c (n + 1) v).z = 0 := by
  induction n generalizing v with
  | zero =>
    rw [intLadder_succ, intLadder_zero]
    exact (intIteration_z_eq_zero hc _ h h').1
  | succ n ih =>
    obtain ⟨hz, hz'⟩ := intIteration_z_eq_zero hc (k.getLsbD (n + 1)) h h'
    rw [intLadder_succ]
    exact ih (by rw [hz, mul_zero]; exact dvd_zero _) (by rw [hz', mul_zero]; exact dvd_zero _)

theorem intScalarMul_z_eq_zero (k : BitVec 256) : (intScalarMul k c).z = 0 :=
  intLadder_z_eq_zero hc k 255 (dvd_zero _) (Dvd.dvd.mul_right hc 1)

end zeroBase

end Sys2Proof.Machine
end

section
/-! PROOFS. The ROM's words run one by one through EXEC_UOP, and the host's sequence of writes. -/

namespace Sys2Proof.Machine

/-! ### Micro-ops on the engine's data (R222) -/

/-- `c` with the engine's data of `s`: F, K, the buffers and the count of draws. -/
def withData (c s : State) : State :=
  { c with f := s.f, k := s.k, secret := s.secret, point := s.point, result := s.result, oobDraws := s.oobDraws }

theorem boundedWrite_withData (p : Prop) [Decidable p] (c s : State) (r : FReg) (v : FieldReg) :
    (if p then writeF (withData c s) r v else writeOob (withData c s) r) =
      withData c (if p then writeF s r v else writeOob s r) := by
  split <;> rfl

theorem boundedWritePoints_withData (p : Prop) [Decidable p] (c s : State) (u : PointPair) :
    (if p then writePoints (withData c s) u else writePointsOob (withData c s)) =
      withData c (if p then writePoints s u else writePointsOob s) := by
  split <;> rfl

/-- A micro-op reads and writes the engine's data only (R35). -/
theorem exec_withData {i : Instr} (hu : isUop i = true) (hw : i.wellFormed = true) (c s : State) :
    exec i (withData c s) = andThen (exec i s) fun t => .next (withData c t) := by
  cases i with
  | fadd rd ra rb => exact congrArg _ (boundedWrite_withData _ c s rd _)
  | fsub rd ra rb => exact congrArg _ (boundedWrite_withData _ c s rd _)
  | fmul rd ra rb => exact congrArg _ (boundedWrite_withData _ c s rd _)
  | fsqr rd ra count =>
    have hc : count ≠ 0 := by simpa [Instr.wellFormed] using hw
    have hexec : ∀ u, exec (.fsqr rd ra count) u = .next (if MulInBound (fieldOf u ra) then
        writeF u rd (limbsReg (fieldSqTimes count.toNat (fieldOf u ra))) else writeOob u rd) := fun _ => if_neg hc
    rw [hexec, hexec]
    exact congrArg _ (boundedWrite_withData _ c s rd _)
  | fmula24 rd ra => exact congrArg _ (boundedWrite_withData _ c s rd _)
  | cswap ra rb bit =>
    have hexec : ∀ u, exec (.cswap ra rb bit) u = .next (swapPoints ra rb (scalarBit u.k bit.toNat) u) :=
      fun _ => if_pos hw
    rw [hexec, hexec]
    rfl
  | finv rd ra => exact congrArg _ (boundedWrite_withData _ c s rd _)
  | lstep => exact congrArg _ (boundedWritePoints_withData _ c s _)
  | smul => exact congrArg _ (boundedWritePoints_withData _ c s _)
  | fmov | fseti | kload | fload | fstore | wipe => rfl
  | derive | execUop => cases hu

/-- The word placed as log 9 has it, in the state that `o` answers, and the engine's turn. -/
def runPlaced (o : Result) (w : Word) : Result := andThen o fun v => step (placeWord w v)

/-- One placed micro-op word does to the engine's data what the micro-op does. -/
theorem runPlaced_uop {w : Word} {i : Instr} (h : decodeUop w = .ok i) (c : State) {s t : State}
    (ht : exec i s = .next t) : ∃ c', runPlaced (.next (withData c s)) w = .next (withData c' t) := by
  obtain ⟨hu, hw⟩ := decodeUop_ok h
  obtain ⟨hstep, hlatch⟩ := step_placeWord_uop h (withData c s)
  have hplaced : placeWord w (withData c s) = withData (placeWord w c) s := by
    rw [placeWord_uop h, placeWord_uop h]; rfl
  refine ⟨finishCommand (placeWord w c), ?_⟩
  rw [runPlaced, andThen_next, hstep, exec_execUop hlatch, hplaced, exec_withData hu hw, ht]
  rfl

/-- So the words of a ROM, placed one by one, do to it what the ROM does. -/
theorem foldl_runPlaced {ws : List Word} (hws : ∀ w ∈ ws, ∃ i, decodeUop w = .ok i) (c : State) {s t : State}
    (ht : runRom ws s = .next t) : ∃ c', ws.foldl runPlaced (.next (withData c s)) = .next (withData c' t) := by
  induction ws generalizing c s with
  | nil => cases ht; exact ⟨c, rfl⟩
  | cons w ws ih =>
    obtain ⟨⟨i, hi⟩, hws⟩ := List.forall_mem_cons.1 hws
    rw [runRom_cons hi] at ht
    obtain ⟨u, hu, hrest⟩ := andThen_eq_next ht
    obtain ⟨c', hc'⟩ := runPlaced_uop hi c hu
    rw [List.foldl_cons, hc']
    exact ih hws c' hrest

/-! ### The host's sequence (R227) -/

theorem coreRun_of_next {M : Host.Core} {s t : M.State} (h : M.step s = .next t) (n : Nat) :
    M.run (n + 1) s = M.run n t := by
  rw [Host.Core.run, h]

theorem coreRun_of_refused {M : Host.Core} {s : M.State} {r : M.Refusal} (h : M.step s = .refused r) (n : Nat) :
    M.run (n + 1) s = .refused r := by
  rw [Host.Core.run, h]

/-- The host interface's run at the model's own types. -/
def runSteps (n : Nat) (s : State) : Result := core.run n s

theorem runSteps_succ (n : Nat) (s : State) : runSteps (n + 1) s = andThen (step s) (runSteps n) := by
  cases hstep : step s with
  | next t => exact coreRun_of_next (M := core) hstep n
  | fault r => cases r
  | refused r => exact coreRun_of_refused (M := core) hstep n

theorem runSteps_add (m n : Nat) (s : State) : runSteps (m + n) s = andThen (runSteps m s) (runSteps n) := by
  induction m generalizing s with
  | zero => rw [Nat.zero_add]; rfl
  | succ m ih =>
    rw [Nat.succ_add, runSteps_succ, runSteps_succ]
    cases step s with
    | next t => exact ih t
    | fault r => rfl
    | refused r => rfl

/-- The sixteen words of SECRET and POINT, which the window shows one after the other from 0x20 on (R24). -/
def operandWords (s : State) : List Word := s.secret.toList ++ s.point.toList

theorem operandWords_length (s : State) : (operandWords s).length = 16 := by simp [operandWords]

/-- Is the block IDLE and out of reset, with these inputs to come? -/
def IdleWith (is : List Input) (s : State) : Prop := s.busy = false ∧ s.inReset = false ∧ s.inputs = is

/-- A host write to the n-th of the sixteen words replaces it. -/
theorem step_writeOperand {s : State} {n : Nat} (hn : n < 16) {v : Word} {rest : List Input}
    (h : IdleWith (singleAccess (targetOfOffset (0x20 + 4 * n)) (.write v) :: rest) s) :
    ∃ t, step s = .next t ∧ operandWords t = (operandWords s).set n v ∧ IdleWith rest t := by
  obtain ⟨hb, hr, hin⟩ := h
  have hoff : 0x20 + 4 * n < 128 := by omega
  have htarget : targetOfOffset (0x20 + 4 * n) = .window ⟨0x20 + 4 * n, hoff⟩ := targetOfOffset_window ⟨_, hoff⟩
  rw [htarget] at hin
  have hstep := step_memWrite hr (off := ⟨0x20 + 4 * n, hoff⟩) (by simp only; omega) hin
  have hidle : ∀ t, unlessBusy (takeInput s rest) t = t := fun t => unlessBusy_idle t hb
  by_cases hs : n < 8
  · rw [windowReg_secret_word (w := ⟨n, hs⟩) rfl, writeWindow, hidle] at hstep
    refine ⟨_, hstep, ?_, hb, hr, rfl⟩
    rw [operandWords, operandWords, List.set_append_left _ _ (by simpa using hs), ← Vector.toList_set hs]
    rfl
  · have hp : n - 8 < 8 := by omega
    rw [windowReg_point_word (w := ⟨n - 8, hp⟩) (by simp only; omega), writeWindow, hidle] at hstep
    refine ⟨_, hstep, ?_, hb, hr, rfl⟩
    rw [operandWords, operandWords, List.set_append_right _ _ (by simpa using hs), Vector.length_toList,
      ← Vector.toList_set hp]
    rfl

/-- A burst of writes from the n-th word to the last. -/
theorem run_writeOperands {vs : List Word} {n : Nat} (hn : n + vs.length = 16) {s : State} {rest : List Input}
    (h : IdleWith (burstWrites (0x20 + 4 * n) vs ++ rest) s) :
    ∃ t, runSteps vs.length s = .next t ∧ operandWords t = (operandWords s).take n ++ vs ∧ IdleWith rest t := by
  induction vs generalizing n s with
  | nil =>
    have hlength : (operandWords s).length ≤ n := by rw [operandWords_length]; exact hn.ge
    exact ⟨s, rfl, by rw [List.take_of_length_le hlength, List.append_nil], h⟩
  | cons v vs ih =>
    rw [List.length_cons] at hn
    obtain ⟨t, ht, htwords, htidle⟩ := step_writeOperand (by omega) h
    obtain ⟨u, hu, huwords, huidle⟩ := ih (n := n + 1) (by omega) htidle
    have htake : ((operandWords s).set n v).take (n + 1) = (operandWords s).take n ++ [v] := by
      rw [List.take_add_one, List.take_set_of_le le_rfl,
        List.getElem?_set_self (by rw [operandWords_length]; omega)]
      rfl
    refine ⟨u, by rw [List.length_cons, runSteps_succ, ht, andThen_next, hu], ?_, huidle⟩
    rw [huwords, htwords, htake, List.append_assoc, List.singleton_append]

/-- SECRET and POINT lie side by side in the window, so the host's sixteen writes are one burst. -/
theorem deriveInputs_eq (secret point : Buffer) :
    deriveInputs secret point =
      burstWrites 0x20 (secret.toList ++ point.toList) ++ [memWrite 0x04 0x00000001, .engine] := by
  rw [deriveInputs, burstWrites, burstWrites, burstWrites, List.map_append, burst_append, List.length_map,
    Vector.length_toList]

theorem run_writeBuffers {s : State} {secret point : Buffer} {rest : List Input}
    (h : IdleWith (burstWrites 0x20 (secret.toList ++ point.toList) ++ rest) s) :
    ∃ t, runSteps 16 s = .next t ∧ t.secret = secret ∧ t.point = point ∧ IdleWith rest t := by
  have hlength : (secret.toList ++ point.toList).length = 16 := by simp
  obtain ⟨t, ht, hwords, hidle⟩ := run_writeOperands (n := 0) (by rw [hlength]) h
  rw [hlength] at ht
  rw [List.take_zero, List.nil_append] at hwords
  obtain ⟨hsecret, hpoint⟩ := List.append_inj hwords (by simp)
  exact ⟨t, ht, Vector.toList_inj.1 hsecret, Vector.toList_inj.1 hpoint, hidle⟩

/-- The DERIVE command written to an idle block, and the engine's turn (R223, R224). -/
theorem run_derive {s : State} {rest : List Input} (h : IdleWith (memWrite 0x04 0x00000001 :: .engine :: rest) s) :
    ∃ u, runSteps 2 s = exec .derive u ∧ u.secret = s.secret ∧ u.point = s.point ∧ u.inputs = rest := by
  obtain ⟨hb, hr, hin⟩ := h
  have hturn := step_busy (s := respond (startCommand 1 (takeInput s (.engine :: rest))) .written) (rest := rest) rfl
    hr (.inl rfl)
  rw [completeCommand_ok exec (i := .derive) rfl] at hturn
  refine ⟨takeInput (respond (startCommand 1 (takeInput s (.engine :: rest))) .written) rest, ?_, rfl, rfl, rfl⟩
  rw [runSteps_succ, step_writeCmd hb hr hin, andThen_next, runSteps_succ, hturn, exec_derive]
  rfl

end Sys2Proof.Machine
end

section
/-! PROOFS. The statements about the commands and the step, settled from the lemmas above. -/

open Sys2Proof Sys2Proof.Machine

/-- Settles O29, by the state the ROM ends in. -/
theorem deriveWritesResultAndWipes : Obligations.DeriveWritesResultAndWipes := fun s =>
  ⟨_, exec_derive s, bufferVal_toLE32_deriveValue s.secret s.point,
    fieldOf_wipedWithResult s (deriveValue s.secret s.point), rfl, rfl, rfl, rfl, rfl, rfl⟩

/-- Settles O31: RESULT is derive's value, which the masked bits do not enter. -/
theorem deriveIgnoresMaskedBits : Obligations.DeriveIgnoresMaskedBits := by
  intro s t s' t' hsecret hpoint hs ht
  cases (exec_derive s).symm.trans hs
  cases (exec_derive t).symm.trans ht
  exact congrArg toLE32 (deriveValue_congr hsecret hpoint)

/-- Settles O32: on a base congruent to 0 the integer ladder ends with Z = 0, so that Z^(p-2) is 0. -/
theorem deriveOfZeroPointIsZero : Obligations.DeriveOfZeroPointIsZero := by
  intro s h
  have hbase : (fieldPrime : Int) ∣ ((bufferVal s.point % 2 ^ 255 : Nat) : Int) :=
    Int.natCast_dvd_natCast.2 (Nat.dvd_of_mod_eq_zero h)
  have hderive : intDerive s.secret s.point = 0 := by
    simp only [intDerive]
    rw [intScalarMul_z_eq_zero hbase, zero_pow (by decide), mul_zero, Int.zero_emod]
  have hvalue : deriveValue s.secret s.point = 0 :=
    Int.natCast_eq_zero.1 ((deriveIsTheLadderModP s.secret s.point).trans hderive)
  refine ⟨_, exec_derive s, fun j => BitVec.eq_of_toNat_eq ?_, rfl, rfl⟩
  have hresult : bufferVal (toLE32 (deriveValue s.secret s.point)) = 0 := by
    rw [bufferVal_toLE32_deriveValue, hvalue]
  rw [bufferByte_toNat]
  simp [wipedWithResult, hresult]

/-- Settles O33: each word placed does to the engine's data what the ROM's micro-op does. -/
theorem romByExecUopEqualsDerive : Obligations.RomByExecUopEqualsDerive := by
  intro s
  obtain ⟨c, hc⟩ := foldl_runPlaced deriveRom_decodes s (runRom_deriveRom s)
  exact ⟨_, _, exec_derive s, hc, rfl, rfl, rfl⟩

/-- Settles O34, by what EXEC_UOP does with a word that decodes. -/
theorem execUopRunsLatchedMicroOp : Obligations.ExecUopRunsLatchedMicroOp :=
  fun _ _ h => exec_execUop_completes h

/-- Settles O38: a placed word is a command's or a micro-op's, and each is in the latch where its decoder reads it. -/
theorem placedWordIsRunNext : Obligations.PlacedWordIsRunNext := by
  intro s nbits w i h
  rcases decodeTableWord_eq_some h with hcmd | huop
  · refine ⟨fun _ => step_placeWord_cmd hcmd s, fun hu => ?_⟩
    rcases decodeCmd_ok hcmd with ⟨-, rfl⟩ | ⟨-, rfl⟩ <;> cases hu
  · refine ⟨fun hu => absurd (decodeUop_ok huop).1 (by simp [hu]), fun _ => ?_⟩
    obtain ⟨hstep, hlatch⟩ := step_placeWord_uop huop s
    obtain ⟨u, hu, hfinish⟩ := exec_execUop_completes hlatch
    exact ⟨u, hu, hstep.trans hfinish⟩

/-- Settles O40, by the frame of a completion and the STATUS it leaves. -/
theorem engineTurnCompletesCommand : Obligations.EngineTurnCompletesCommand := by
  intro s rest hb hr hin
  obtain ⟨t, ht, hc⟩ := completeCommand_completes (takeInput s rest)
  obtain ⟨hbusy, hdone, -⟩ := hc.status
  refine ⟨t, (step_busy hb hr (.inl hin)).trans ht, hbusy, hdone, (commandCompletes_statusLegal hc).err_iff, ?_⟩
  rw [hc.frame]
  exact ⟨rfl, rfl, rfl, rfl, rfl, rfl, rfl, rfl, rfl⟩

/-- Settles O41: the sixteen writes fill the buffers, then DERIVE runs on them. -/
theorem hostDriverSequenceDerives : Obligations.HostDriverSequenceDerives := by
  intro s secret point rest hb hr hin
  rw [deriveInputs_eq, List.append_assoc] at hin
  obtain ⟨t, ht, htsecret, htpoint, hidle⟩ := run_writeBuffers ⟨hb, hr, hin⟩
  obtain ⟨u, hu, husecret, hupoint, huin⟩ := run_derive hidle
  have hsecret : u.secret = secret := husecret.trans htsecret
  have hpoint : u.point = point := hupoint.trans htpoint
  have hrun : runSteps 18 s = .next (finishCommand (wipedWithResult u (deriveValue u.secret u.point))) := by
    rw [runSteps_add 16 2, ht, andThen_next, hu, exec_derive]
  refine ⟨_, hrun, ?_, hsecret, hpoint, rfl, rfl, rfl, rfl, huin,
    fieldOf_wipedWithResult u (deriveValue u.secret u.point), rfl⟩
  rw [← hsecret, ← hpoint]
  exact bufferVal_toLE32_deriveValue u.secret u.point

/-- Settles O58, by the input at the head: only the host's turn can be refused. -/
theorem stepStopsOnlyOnAccessInReset : Obligations.StepStopsOnlyOnAccessInReset := by
  refine ⟨fun s => ?_, fun s a off rest hin ht hr => ?_⟩
  · match hin : s.inputs with
    | [] => exact .inl (step_nil hin ▸ engineTurn_answers s)
    | .engine :: rest => exact .inl (step_engine hin ▸ engineTurn_answers _)
    | .resetAssert :: rest => exact .inl ⟨_, step_resetAssert hin⟩
    | .resetRelease :: rest => exact .inl ⟨_, step_resetRelease hin⟩
    | .host a :: rest =>
      rw [step_host hin]
      rcases hostTurn_cases a (takeInput s rest) with ⟨-, h⟩ | ⟨off, ht, hr, h⟩ | ⟨off, -, -, h⟩
      · exact .inl ⟨_, h⟩
      · exact .inr ⟨h, hr, a, off, rest, rfl, ht⟩
      · exact .inl ⟨_, h⟩
  · rw [step_host hin]
    rcases hostTurn_cases a (takeInput s rest) with ⟨hout, -⟩ | ⟨-, -, -, h⟩ | ⟨-, -, hrun, -⟩
    · cases ht.symm.trans hout
    · exact h
    · cases hr.symm.trans hrun

/-- Settles O37: the running command by its decoder, EXEC_UOP's micro-op by the other one. -/
theorem stepRunsDecodedInstruction : Obligations.StepRunsDecodedInstruction := by
  intro s rest hb hr hin
  have hrun : ∀ i, decodeCmd s.latchCmd = .ok i → step s = exec i (takeInput s rest) := fun i hi =>
    (step_busy hb hr hin).trans (completeCommand_ok exec (s := takeInput s rest) hi)
  refine ⟨hrun, fun i hcmd huop => ?_⟩
  obtain ⟨u, hu, hfinish⟩ := exec_execUop_completes (s := takeInput s rest) huop
  exact ⟨u, hu, (hrun _ hcmd).trans hfinish⟩

/-- Settles O39: while IDLE the busy filter lets the start through. -/
theorem cmdWriteStartsCommand : Obligations.CmdWriteStartsCommand :=
  fun _ _ _ hb hr hin => ⟨_, step_writeCmd hb hr hin, rfl, rfl⟩
end

section
/-! PROOFS. CmdError: a completion takes it when the latched command word or micro-op word does not decode. -/

namespace Sys2Proof.Machine

/-- EXEC_UOP of a word that does not decode executes nothing (R222). -/
theorem exec_execUop_error {s : State} {c : CmdError} (h : decodeUop s.latchUop = .error c) :
    exec .execUop s = .next (takeCmdError c s) := by
  have hexec : exec .execUop s = execExecUop s := rfl
  rw [hexec, execExecUop, h]

theorem completeCommand_badCommand (run : Instr → State → Result) {s : State} {c : CmdError}
    (h : decodeCmd s.latchCmd = .error c) : completeCommand run s = .next (takeCmdError c s) := by
  rw [completeCommand, h]

theorem completeCommand_badMicroOp {s : State} {c : CmdError} (hcmd : decodeCmd s.latchCmd = .ok .execUop)
    (huop : decodeUop s.latchUop = .error c) : completeCommand exec s = .next (takeCmdError c s) :=
  (completeCommand_ok exec hcmd).trans (exec_execUop_error huop)

theorem decodeCmd_badCmd {w : Word} (hderive : w.toNat ≠ 1) (hexecUop : w.toNat ≠ 2) :
    decodeCmd w = .error .badCmd := by
  rw [decodeCmd, if_neg (mt (congrArg BitVec.toNat) hderive), if_neg (mt (congrArg BitVec.toNat) hexecUop)]

/-- R243's order for the micro-op's three errors, each condition on the bits of the word. -/
theorem exec_execUop_by_priority (s : State) :
    exec .execUop s =
      if opcField s.latchUop = 0 ∨ 16 ≤ opcField s.latchUop then .next (takeCmdError .badOpcode s)
      else if s.latchUop &&& reservedZeroMask (opcField s.latchUop) ≠ 0 then .next (takeCmdError .badField s)
      else if (opcField s.latchUop = 4 ∧ s.latchUop.toNat % 2 ^ 12 = 0) ∨
          (opcField s.latchUop = 8 ∧ (s.latchUop.getLsbD 16 = true ∨ s.latchUop.getLsbD 12 = true)) then
        .next (takeCmdError .badOperand s)
      else exec .execUop s := by
  have hlegal : ∀ {i}, uopOfOpcode (opcField s.latchUop) s.latchUop = some i →
      ¬(opcField s.latchUop = 0 ∨ 16 ≤ opcField s.latchUop) := fun hsel hopc => by
    cases hsel.symm.trans ((uopOfOpcode_eq_none_iff _ _).2 hopc)
  cases uopDecoding s.latchUop with
  | badOpcode hsel hd => rw [if_pos ((uopOfOpcode_eq_none_iff _ _).1 hsel), exec_execUop_error hd]
  | badField i hsel hmask hd => rw [if_neg (hlegal hsel), if_pos hmask, exec_execUop_error hd]
  | badOperand i hsel hmask hwf hd =>
    rw [if_neg (hlegal hsel), if_neg (not_not.2 hmask), if_pos ((wellFormed_eq_false_iff hsel).1 hwf),
      exec_execUop_error hd]
  | ok i hsel hmask hwf hd =>
    have hgood := mt (wellFormed_eq_false_iff hsel).2 (by simp [hwf])
    rw [if_neg (hlegal hsel), if_neg (not_not.2 hmask), if_neg hgood]

end Sys2Proof.Machine
end

section
/-! PROOFS. The statements about exceptions, settled from the lemmas above. -/

open Sys2Proof Sys2Proof.Machine

/-- Settles O35: the engine's turn takes the error of whichever word does not decode, and taking it is that STATUS. -/
theorem cmdErrorChangesOnlyStatus : Obligations.CmdErrorChangesOnlyStatus := by
  intro s c rest hb hr hin herr
  have htaken : step s = .next (takeCmdError c (takeInput s rest)) := by
    rw [step_busy hb hr (.inl hin)]
    rcases herr with hcmd | ⟨hcmd, huop⟩
    · exact completeCommand_badCommand exec (s := takeInput s rest) hcmd
    · exact completeCommand_badMicroOp (s := takeInput s rest) hcmd huop
  rw [htaken]
  cases c <;> rfl

/-- Settles O36: BAD_CMD by the command decoder, the other three errors in the micro-op decoder's order. -/
theorem errorPriorityOnCompletion : Obligations.ErrorPriorityOnCompletion := by
  have hexecUop : ∀ {s : State}, s.latchCmd = 2 → decodeCmd s.latchCmd = .ok .execUop := fun h => h ▸ rfl
  refine ⟨fun s h1 h2 => completeCommand_badCommand exec (decodeCmd_badCmd h1 h2), fun s hcmd => ?_,
    fun s hcmd huop => ?_, fun s hcmd huop => ?_, fun s hcmd => ?_⟩
  · have hpriority := exec_execUop_by_priority s
    rw [opcField_eq] at hpriority
    exact (completeCommand_ok exec (hexecUop hcmd)).trans hpriority
  · exact ⟨_, completeCommand_badMicroOp (c := .badField) (hexecUop hcmd) (huop ▸ rfl), rfl⟩
  · exact ⟨_, completeCommand_badMicroOp (c := .badOpcode) (hexecUop hcmd) (huop ▸ rfl), rfl⟩
  · exact ⟨_, completeCommand_badCommand exec (c := .badCmd) (hcmd ▸ rfl), rfl⟩
end

section
/-! PROOFS. The control part of a state, and that a step's control is a function of it; the registers at reset. -/

namespace Sys2Proof.Machine

/-! ### Control (R275) -/

/-- `s` with all that `SameControl` leaves free at its reset value: the engine's data and the last answer. -/
def controlOf (s : State) : State := respond (withData s State.reset) .none

theorem sameControl_iff (s t : State) : SameControl s t ↔ controlOf s = controlOf t := by
  refine ⟨fun ⟨hbusy, hdone, herr, hovr, hcode, hie, huop, hcmd, hlatch, hreset, hin⟩ => ?_, fun h => ?_⟩
  · simp only [controlOf, withData, respond, hbusy, hdone, herr, hovr, hcode, hie, huop, hcmd, hlatch, hreset, hin]
  · have hsame : SameControl (controlOf s) (controlOf t) := by
      rw [h]; exact ⟨rfl, rfl, rfl, rfl, rfl, rfl, rfl, rfl, rfl, rfl, rfl⟩
    exact hsame

theorem SameControl.irq_eq {s t : State} (h : SameControl s t) : irq s = irq t := by
  obtain ⟨-, hdone, -, -, -, hie, -⟩ := h
  rw [irq, irq, hdone, hie]

/-- The control that an answer shows: that of the next state, or the refusal. -/
def shownControl (o : Result) : Result := andThen o fun t => .next (controlOf t)

/-! ### The engine's turn -/

theorem MicroOpEffect.controlOf_eq {s u : State} (h : MicroOpEffect s u) : controlOf u = controlOf s := by
  obtain ⟨hu, -, -⟩ := h
  rw [hu]; rfl

theorem shownControl_derive (s : State) : shownControl (exec .derive s) = .next (finishCommand (controlOf s)) := by
  rw [exec_derive]; rfl

theorem shownControl_execUop_ok {s : State} {i : Instr} (h : decodeUop s.latchUop = .ok i) :
    shownControl (exec .execUop s) = .next (finishCommand (controlOf s)) := by
  obtain ⟨hu, hw⟩ := decodeUop_ok h
  obtain ⟨u, hexec, heffect⟩ := exec_uop_effect hu hw s
  rw [exec_execUop h, hexec, andThen_next]
  exact congrArg (fun c => Host.Outcome.next (finishCommand c)) heffect.controlOf_eq

/-- Whether the micro-op word decodes is read off the latch, which is control. -/
theorem shownControl_execUop (s : State) :
    shownControl (exec .execUop s) = shownControl (exec .execUop (controlOf s)) := by
  cases h : decodeUop s.latchUop with
  | ok i => rw [shownControl_execUop_ok h, shownControl_execUop_ok (s := controlOf s) h]; rfl
  | error c => rw [exec_execUop_error h, exec_execUop_error (s := controlOf s) h]; rfl

theorem shownControl_completeCommand (s : State) :
    shownControl (completeCommand exec s) = shownControl (completeCommand exec (controlOf s)) := by
  cases h : decodeCmd s.latchCmd with
  | ok i =>
    rw [completeCommand_ok exec h, completeCommand_ok exec (s := controlOf s) h]
    rcases decodeCmd_ok h with ⟨-, rfl⟩ | ⟨-, rfl⟩
    · rw [shownControl_derive, shownControl_derive]; rfl
    · exact shownControl_execUop s
  | error c => rw [completeCommand_badCommand exec h, completeCommand_badCommand exec (s := controlOf s) h]; rfl

theorem shownControl_engineTurn (s : State) :
    shownControl (engineTurn exec s) = shownControl (engineTurn exec (controlOf s)) := by
  by_cases h : s.busy = false ∨ s.inReset = true
  · rw [engineTurn_idle exec h, engineTurn_idle exec (s := controlOf s) h]; rfl
  · obtain ⟨hb, hr⟩ : s.busy = true ∧ s.inReset = false := by simpa using h
    rw [engineTurn_busy exec hb hr, engineTurn_busy exec (s := controlOf s) hb hr, shownControl_completeCommand]

/-! ### The host's turn -/

theorem controlOf_unlessBusy (s t : State) :
    controlOf (unlessBusy s t) = unlessBusy (controlOf s) (controlOf t) :=
  apply_ite controlOf _ _ _

theorem controlOf_writeWindow (r : WindowReg) (v : Word) (s : State) :
    controlOf (writeWindow r v s) = controlOf (writeWindow r v (controlOf s)) := by
  cases r with
  | cmd | uop | secret | point =>
    simp only [writeWindow, controlOf_unlessBusy]; rfl
  | id | status | irqEn | reserved | result => rfl

theorem accessWindow_refused {a : HostAccess} {off : Fin 128} (hacc : accepted off a = false) (s : State) :
    accessWindow off a s = respond s .busError := by
  simp [accessWindow, hacc]

theorem controlOf_accessWindow (off : Fin 128) (a : HostAccess) (s : State) :
    controlOf (accessWindow off a s) = controlOf (accessWindow off a (controlOf s)) := by
  rcases accessWindow_cases off a s with ⟨hacc, hop, h⟩ | ⟨v, hacc, hop, h⟩ | ⟨hacc, h⟩
  · rw [h, accessWindow_read hacc hop]; rfl
  · rw [h, accessWindow_write hacc hop]; exact controlOf_writeWindow _ v s
  · rw [h, accessWindow_refused hacc]; rfl

theorem hostTurn_inReset {a : HostAccess} {off : Fin 128} {s : State} (ht : a.target = .window off)
    (hr : s.inReset = true) : hostTurn a s = .refused .accessDuringReset := by
  simp [hostTurn, ht, hr]

theorem shownControl_hostTurn (a : HostAccess) (s : State) :
    shownControl (hostTurn a s) = shownControl (hostTurn a (controlOf s)) := by
  rcases hostTurn_cases a s with ⟨ht, h⟩ | ⟨off, ht, hr, h⟩ | ⟨off, ht, hr, h⟩
  · rw [h, hostTurn_outside ht]; rfl
  · rw [h, hostTurn_inReset (s := controlOf s) ht hr]
  · rw [h, hostTurn_window (s := controlOf s) ht hr]
    exact congrArg Host.Outcome.next (controlOf_accessWindow off a s)

/-! ### The step -/

/-- A step's control is a function of the state's control: erasing the data first changes nothing of it. -/
theorem shownControl_step (s : State) : shownControl (step s) = shownControl (step (controlOf s)) := by
  match h : s.inputs with
  | [] => rw [step_nil h, step_nil (s := controlOf s) h, shownControl_engineTurn]
  | .engine :: rest =>
    rw [step_engine h, step_engine (s := controlOf s) h]; exact shownControl_engineTurn (takeInput s rest)
  | .host a :: rest =>
    rw [step_host h, step_host (s := controlOf s) h]; exact shownControl_hostTurn a (takeInput s rest)
  | .resetAssert :: rest => rw [step_resetAssert h, step_resetAssert (s := controlOf s) h]; rfl
  | .resetRelease :: rest => rw [step_resetRelease h, step_resetRelease (s := controlOf s) h]; rfl

theorem shownControl_eq_next {o : Result} {c : State} (h : shownControl o = .next c) :
    ∃ t, o = .next t ∧ controlOf t = c := by
  obtain ⟨t, ho, ht⟩ := andThen_eq_next h
  exact ⟨t, ho, by cases ht; rfl⟩

theorem shownControl_eq_refused {o : Result} {r : Refusal} (h : shownControl o = .refused r) : o = .refused r := by
  cases o with
  | next t => cases h
  | fault e => cases e
  | refused e => cases h; rfl

/-! ### Reset (R270) -/

theorem step_engineTurn_inReset {s : State} {rest : List Input} (hr : s.inReset = true)
    (h : s.inputs = .engine :: rest ∨ (s.inputs = [] ∧ rest = [])) : step s = .next (takeInput s rest) := by
  rw [step_engineTurn h, engineTurn_idle exec (s := takeInput s rest) (.inr hr)]

@[simp] theorem fieldOf_reset (r : FReg) : fieldOf State.reset r = ⟨0, 0, 0, 0, 0⟩ := by
  simp [fieldOf, readF, State.reset, regLimbs, zeroReg]

@[simp] theorem bufferVal_zeroBuffer : bufferVal zeroBuffer = 0 := by decide

end Sys2Proof.Machine
end

section
/-! PROOFS. The statements about reset and hazards, settled from the lemmas above. -/

open Sys2Proof Sys2Proof.Machine

/-- Settles O52: the control that a step shows is that of the step with the data erased, which both states share. -/
theorem controlIsIndependentOfData : Obligations.ControlIsIndependentOfData := by
  intro s t h
  have hshown : shownControl (step t) = shownControl (step s) := by
    rw [shownControl_step t, shownControl_step s, (sameControl_iff s t).1 h]
  rcases stepStopsOnlyOnAccessInReset.1 s with ⟨s', hs⟩ | ⟨hs, -⟩
  · obtain ⟨t', ht, hc⟩ := shownControl_eq_next (hshown.trans (congrArg shownControl hs))
    have hsame : SameControl s' t' := (sameControl_iff s' t').2 hc.symm
    exact .inl ⟨s', t', hs, ht, hsame, hsame.irq_eq⟩
  · exact .inr ⟨hs, shownControl_eq_refused (hshown.trans (congrArg shownControl hs))⟩

/-- Settles O48: each clause is the step of its input, and the last one runs the three in a row. -/
theorem resetClearsEveryRegister : Obligations.ResetClearsEveryRegister := by
  refine ⟨fun s rest hin => ?_, fun _ _ hr hin => step_engineTurn_inReset hr hin, fun _ _ hin => step_resetRelease hin,
    fun s rest hin => ?_⟩
  · exact ⟨_, step_resetAssert hin, rfl, rfl, fieldOf_reset, rfl, bufferVal_zeroBuffer, bufferVal_zeroBuffer,
      bufferVal_zeroBuffer, rfl, rfl, rfl, rfl, rfl, rfl, rfl, rfl, rfl, rfl⟩
  · exact (coreRun_of_next (M := core) (step_resetAssert hin) 2).trans
      ((coreRun_of_next (M := core) (step_engineTurn_inReset rfl (.inl rfl)) 1).trans
        (coreRun_of_next (M := core) (step_resetRelease rfl) 0))

/-- Settles O49, by the fields of State.reset. -/
theorem stateResetIsAllZero : Obligations.StateResetIsAllZero :=
  ⟨fieldOf_reset, rfl, bufferVal_zeroBuffer, bufferVal_zeroBuffer, bufferVal_zeroBuffer, rfl, rfl, rfl, rfl, rfl, rfl,
    rfl⟩

/-- Settles O51: the registers are those of asserted reset, which meets the invariant, and the line is released. -/
theorem resetMeetsInvariant : Obligations.ResetMeetsInvariant := by
  obtain ⟨hstatus, hscalar, hresult, -⟩ := assertReset_inv State.reset
  exact ⟨hstatus, hscalar, hresult, nofun⟩
end
